-- ==== Sys2Proof/Word.lean ====
section
/-! DEFINITION. The plain words of the part: bytes of the two-wire bus and cage numbers. -/

namespace Sys2Proof

/-- One byte as it passes on a two-wire bus (00_scope, Conventions: 0x00–0xFF).  Data bytes, offsets, positions,
sheet numbers and directive codes are all bytes of the bus. -/
abbrev Byte := BitVec 8

/-- A cage number, 0–31 (00_scope, Terms: cage).  Upper port k, cage port k and cage k share the number. -/
abbrev CageId := Fin 32

end Sys2Proof
end

