-- ==== Sys2Proof/Syntax.lean ====
section
/-! DEFINITION. The commands of the part, one constructor per row of spec/opcode_table.json, with the operands each
event brings from outside: the cage it concerns, the levels and bytes on its buses and the module's answers. -/

namespace Sys2Proof

/-- What becomes of ONE transaction that the part itself makes on a cage port (R5, R14), or of the look at CDA that
stands before it (R123, R157). -/
inductive Response where
  /-- The look at CDA before the transaction sees the line held low (R123, R157): the transaction is not started. -/
  | held
  /-- Address NACK, or NACK of a write's offset byte (R5: BUSY): the module took nothing. -/
  | busy
  /-- The module NACKs the data byte after `taken` bytes it took (R5: REFUSED). -/
  | refused (taken : Nat)
  /-- All ACKed (R5: TAKEN); for a read, `bytes` are the bytes the module supplied, in order. -/
  | taken (bytes : List Byte)
  deriving DecidableEq, Repr

/-- The commands: the rows of spec/opcode_table.json in the table's order.  `k` is the cage concerned.
A measured time not given is the longest a stall timer shows, and an acknowledge not given is an ACK. -/
inductive Instr where
  /-- POWER_ON (R50): the internal power-on reset. -/
  | powerOn
  /-- LINE_RESET_ASSERT (R77): RESET_n becomes asserted. -/
  | lineResetAssert
  /-- LINE_RESET_RELEASE (R77): RESET_n becomes released. -/
  | lineResetRelease
  /-- RESET_PROFILE_LOAD_END (R201): the load of a reset ends; `flash` are the bytes the flash holds from offset 0
  (a byte beyond the list reads as 0xFF). -/
  | resetProfileLoadEnd (flash : List Byte)
  /-- RELOAD_LOAD_END (R203): the load of a RELOAD ends; `flash` as above. -/
  | reloadLoadEnd (flash : List Byte)
  /-- PENDING_BUDGET_ADOPT (R104). -/
  | pendingBudgetAdopt
  /-- PRESENCE_ASSERTED (R54): MPRES_n becomes asserted. -/
  | presenceAsserted (k : CageId)
  /-- REMOVAL (R73): MPRES_n becomes released. -/
  | removal (k : CageId)
  /-- MINT_CHANGE (R53): MINT_n takes the level `asserted`. -/
  | mintChange (k : CageId) (asserted : Bool)
  /-- SETTLE_COMPARE_B (R55). -/
  | settleCompareB (k : CageId)
  /-- PHASE_COMPARE_A (R83). -/
  | phaseCompareA (k : CageId)
  /-- ATTEMPT_DUE (R84). -/
  | attemptDue (k : CageId)
  /-- PROBE_ATTEMPT_NOT_YET (R84): the transactions of the attempt in hand end with these answers. -/
  | probeAttemptNotYet (k : CageId) (answers : List Response)
  /-- PROBE_STEP_COMPLETE (R62): the transactions of the attempt in hand end with these answers. -/
  | probeStepComplete (k : CageId) (answers : List Response)
  /-- ADMISSION (R101): the unit checks the head of its list. -/
  | admission
  /-- PROBE_H_MATCH (R66): the transactions of the poll in hand end with these answers. -/
  | probeHMatch (k : CageId) (answers : List Response)
  /-- BOOT_TIMEOUT (R59): compare B of the boot phase; `carried` is the answer of a transaction in progress. -/
  | bootTimeout (k : CageId) (carried : Option Response)
  /-- POWER_TIMEOUT (R67): compare B of the power phase; `carried` as above. -/
  | powerTimeout (k : CageId) (carried : Option Response)
  /-- ADOPT_STEP_COMPLETE (R80): the transactions of the attempt in hand end with these answers. -/
  | adoptStepComplete (k : CageId) (answers : List Response)
  /-- ADOPT_COMPARE_B (R80): compare B of the adopt phase; `carried` as above. -/
  | adoptCompareB (k : CageId) (carried : Option Response)
  /-- CURSOR_RETURN_TRANSACTION_END (R16): the cursor return's transaction in hand ends. -/
  | cursorReturnTransactionEnd (k : CageId) (answer : Response)
  /-- BUSY_RETRY_DUE (R88). -/
  | busyRetryDue (k : CageId)
  /-- WRITE_BUSY_LIMIT (R88). -/
  | writeBusyLimit (k : CageId)
  /-- CHANNEL_GRANT (R111): the engine grants the head of the staged list a free channel. -/
  | channelGrant
  /-- RECORD_WRITE_END (R114): the located write's transaction in hand ends. -/
  | recordWriteEnd (k : CageId) (answer : Response)
  /-- POST_DELAY_END (R118). -/
  | postDelayEnd (k : CageId)
  /-- VERIFY_READ_END (R120): the verify read's transactions end with these answers. -/
  | verifyReadEnd (k : CageId) (answers : List Response)
  /-- DELAYED_READ_FETCH_END (R126): the fetch's transactions end with these answers. -/
  | delayedReadFetchEnd (k : CageId) (answers : List Response)
  /-- DEFERRED_WRITE_APPLIED (R129): the head entry's transactions end with these answers. -/
  | deferredWriteApplied (k : CageId) (answers : List Response)
  /-- DISCARD_TIMER_EXPIRY (R93). -/
  | discardTimerExpiry (k : CageId)
  /-- UPPER_START (R141): a start condition on the upper port. -/
  | upperStart (k : CageId)
  /-- ADDRESS_BYTE (R143): the address byte is complete; `cdaLow` is what a look at CDA before a relay sees (R157). -/
  | addressByte (k : CageId) (addr : BitVec 7) (read cdaLow : Bool)
  /-- OFFSET_BYTE (R146): the offset byte of a write to the module address is complete; `cdaLow` as above. -/
  | offsetByte (k : CageId) (offset : Byte) (cdaLow : Bool)
  /-- DOWNSTREAM_ADDRESS_ANSWER (R147): the cage port's acknowledge bit of the relayed address or offset. -/
  | downstreamAddressAnswer (k : CageId) (ack : Bool)
  /-- WRITE_DATA_BYTE (R147): a data byte from the controller, with the cage port's acknowledge of it where it is
  passed down. -/
  | writeDataByte (k : CageId) (b : Byte) (ack : Bool)
  /-- DEFER_DATA_BYTE (R165): a data byte of a DEFER write. -/
  | deferDataByte (k : CageId) (b : Byte)
  /-- READ_DATA_BYTE (R150): a byte of a relayed read, as the cage port supplies it, with the controller's acknowledge. -/
  | readDataByte (k : CageId) (b : Byte) (ack : Bool := true)
  /-- SLOT_READ_BYTE (R170): the controller clocks one byte of a read held at the gate and acknowledges it, or not. -/
  | slotReadByte (k : CageId) (ack : Bool := true)
  /-- UPPER_STOP (R148): a stop condition on the upper port. -/
  | upperStop (k : CageId)
  /-- UPPER_REPEATED_START (R151): a repeated start on the upper port. -/
  | upperRepeatedStart (k : CageId)
  /-- UNKNOWN_DIRECTIVE_CODE (R176): a directive with this code arrives at the decoder. -/
  | unknownDirectiveCode (k : CageId) (code : Byte) (arg : Option Byte)
  /-- UPSTREAM_STALL (R154): the controller has made no progress for `waited` milliseconds since the stall timer was last
  started; `inRead` says that a byte of a read is in progress. -/
  | upstreamStall (k : CageId) (inRead : Bool) (waited : Nat := 255)
  /-- BUS_FREE_INTERVAL (R156): in HUNT UCL and UDA have been high for `free` milliseconds without a break, as the stall timer
  measures it. -/
  | busFreeInterval (k : CageId) (free : Nat := 255)
  /-- CDA_RELEASED (R157): CDA is released before the stuck detection time. -/
  | cdaReleased (k : CageId)
  /-- STUCK_DETECTION_EXPIRY (R157): CDA is still low at the stuck detection time. -/
  | stuckDetectionExpiry (k : CageId)
  /-- BUS_CLEAR_END (R158): the bus clear ends, with CDA released or not. -/
  | busClearEnd (k : CageId) (released : Bool)
  /-- CCL_HOLD_EXPIRY (R160): the module has held CCL for `held` milliseconds, and has then released it or holds it still. -/
  | cclHoldExpiry (k : CageId) (held : Nat := 255) (released : Bool := false)
  /-- RESEAT (R183): directive 0x01 arrives from upper port `k`, with its argument if it carried one. -/
  | reseat (k : CageId) (arg : Option Byte)
  /-- RESUME (R184): directive 0x02. -/
  | resume (k : CageId) (arg : Option Byte)
  /-- FORGET (R185): directive 0x03. -/
  | forget (k : CageId) (arg : Option Byte)
  /-- RESTORE_NOW (R186): directive 0x04. -/
  | restoreNow (k : CageId) (arg : Option Byte)
  /-- FREEZE (R42): directive 0x05. -/
  | freeze (k : CageId) (arg : Option Byte)
  /-- THAW (R43): directive 0x06. -/
  | thaw (k : CageId) (arg : Option Byte)
  /-- REPORT (R188): directive 0x07. -/
  | report (k : CageId) (arg : Option Byte)
  /-- INJECT (R195): directive 0x08. -/
  | inject (k : CageId) (arg : Option Byte)
  /-- LOG (R207): directive 0x09. -/
  | log (k : CageId) (arg : Option Byte)
  /-- CLEARLOG (R199): directive 0x0A. -/
  | clearLog (k : CageId) (arg : Option Byte)
  /-- RELOAD (R189): directive 0x0B. -/
  | reload (k : CageId) (arg : Option Byte)
  /-- NOTICE_FRAME_SENT (R205): the head frame's last stop bit ends on NTX. -/
  | noticeFrameSent
  deriving DecidableEq, Repr

end Sys2Proof
end

