-- ==== Sys2Proof/Decode.lean ====
section
/-! DEFINITION. The words of the table.  No row of spec/opcode_table.json gives bits: the part takes events, not
encoded words, so no word spells a command. -/

namespace Sys2Proof

/-- The command that a word spells by the table's bits.  No row of the table has bits ("fields": [], no "fixed"),
so the answer is none for every word. -/
def decodeTableWord (_nbits _w : Nat) : Option Instr := none

end Sys2Proof
end

