-- ==== Sys2Proof/Config.lean ====
section
/-! DEFINITION. The value the manual leaves to the implementation: a constant with no body, so that no proof can see
it. -/

namespace Sys2Proof

/-- FREE VALUE (R192; log entry 4).  Which syndromes the code gives to the data and field bits of a slot: for each bit in
turn, the place of its syndrome among those not yet given, counted round their number.  The manual says that each data
or field bit has its own syndrome with an odd number of bits set, three or more, and does not say which. -/
opaque Config.columnOrder : Nat → Nat

end Sys2Proof
end

