-- ==== Sys2Proof/Machine/Types.lean ====
section
/-! DEFINITION. The types of the part's state, block by block, in the manual's own names. -/

namespace Sys2Proof.Machine

/-! ## Module memory and cursors (chapter 1) -/

/-- The controller cursor: the (sheet, pointer) pair the controller believes the module holds (R10). -/
structure Cursor where
  sheet : Byte
  pointer : Byte
  deriving DecidableEq, Repr

/-- The module cursor: the pair the part believes the module holds; `none` is UNKNOWN (R10). -/
structure ModCursor where
  sheet : Option Byte
  pointer : Option Byte
  deriving DecidableEq, Repr

/-- The area of a location (R1, R9): the base area, or the window on one sheet. -/
inductive Area where
  | base
  | sheet (n : Byte)
  deriving DecidableEq, Repr

/-- One bus transaction of the part itself on a cage port (R6, R7, R8). -/
inductive Trans where
  /-- The sheet-select write [125, n]. -/
  | select (n : Byte)
  /-- A write [offset, data]. -/
  | write (offset : Byte) (data : List Byte)
  /-- A pointer write [p]. -/
  | pointer (p : Byte)
  /-- A read of `n` bytes. -/
  | read (n : Nat)
  deriving DecidableEq, Repr

/-! ## The configuration journal (chapter 2) -/

/-- The kind of a record (R20). -/
inductive Kind where
  | plain
  | marker
  deriving DecidableEq, Repr

/-- A record (R20): its length is the number of its data bytes. -/
structure Record where
  area : Area
  start : Nat
  data : List Byte
  rule : Nat
  kind : Kind
  deriving DecidableEq, Repr

/-- The journal state (R23). -/
inductive JournalState where
  | opened
  | frozen
  | spilled
  | damaged
  deriving DecidableEq, Repr

/-- The spill cause (R38). -/
inductive SpillCause where
  | quota
  | pool
  | segments
  deriving DecidableEq, Repr

/-- The cage record (R18).  `closed` are the closed segments, oldest first, and `opened` the open segment, each a list of
slot numbers in journal order, so that the open segment is always present and is the last (R21). -/
structure CageRecord where
  state : JournalState
  closed : List (List Nat)
  opened : List Nat
  quota : Nat
  identity : Option (List Byte)
  incomplete : Bool
  mask : Option Byte
  deriving DecidableEq, Repr

/-- One record slot of the Journal Store (R19, R191): the record written into it, and the syndrome that a read of it forms
(R192; log entry 4).  What the slot's bits hold under that syndrome are the views `Slot.stored` and `Slot.checkBits`. -/
structure Slot where
  used : Bool
  record : Record
  syndrome : Byte
  deriving DecidableEq, Repr

/-- A profile check value (R201): the image's check word, or DEFAULT. -/
inductive CheckValue where
  | word (w : BitVec 16)
  | default
  deriving DecidableEq, Repr

/-- The slot pool (R19): the slots that were ever written, by number, in the canonical form of log entry 5, and the journal
check value.  The free count is `Store.freeCount`. -/
structure Store where
  slots : List (Nat × Slot)
  checkValue : CheckValue
  deriving DecidableEq, Repr

/-! ## The profile (chapters 2, 4, 5, 11) -/

/-- The twelve items of the timing set (R89). -/
structure TimingSet where
  settle : Nat
  bootFirst : Nat
  bootLimit : Nat
  powerFirst : Nat
  powerLimit : Nat
  poll : Nat
  writeBusy : Nat
  stall : Nat
  readDiscard : Nat
  stuckDetect : Nat
  clearPulses : Nat
  verifyRetries : Nat
  deriving DecidableEq, Repr

/-- A readiness probe (R56). -/
structure Probe where
  area : Area
  position : Byte
  mask : Byte
  expected : Byte
  deriving DecidableEq, Repr

/-- An identity field (R60); `serial` is its marking, SERIAL or CLASS. -/
structure IdField where
  area : Area
  start : Byte
  length : Nat
  serial : Bool
  deriving DecidableEq, Repr

/-- The area of a capture rule (R24). -/
inductive RuleArea where
  | base
  | sheets (lo hi : Byte)
  deriving DecidableEq, Repr

/-- The action of a capture rule (R26). -/
inductive Action where
  | record
  | marker
  | ignore
  | intercept
  deriving DecidableEq, Repr

/-- A capture rule, as adjusted at load (R24). -/
structure Rule where
  area : RuleArea
  lo : Byte
  hi : Byte
  action : Action
  verify : Bool
  postDelay : Nat
  deriving DecidableEq, Repr

/-- The presence policy (R52). -/
inductive PresencePolicy where
  | early
  | late
  deriving DecidableEq, Repr

/-- The profile as installed (R200, R202). -/
structure Profile where
  timing : TimingSet
  budget : Nat
  factor : Nat
  draws : Vector Nat 8
  moduleAddr : BitVec 7
  policy : PresencePolicy
  compatible : Bool
  probeL : Probe
  probeH : Probe
  classPos : Byte
  classMask : Byte
  classShift : Nat
  fields : List IdField
  rules : List Rule
  fetchLen : Nat
  quotas : Vector Nat 32
  deriving DecidableEq, Repr

/-- The outcome of a profile load (R201). -/
inductive LoadOutcome where
  | good
  | absent
  | bad
  deriving DecidableEq, Repr

/-- The trigger of a profile load (R201, R198). -/
inductive Trigger where
  | powerOn
  | lineReset
  | reload
  deriving DecidableEq, Repr

/-- The loader's side of the configuration port (R201): whether CS_n is asserted, the bytes sent to the flash in the load in
progress or the last one, and how many image bytes were clocked in when that load ended. -/
structure FlashPort where
  selected : Bool
  sent : List Byte
  clocked : Nat
  deriving DecidableEq, Repr

/-- The Profile Loader (R201, R203): the installed profile, the outcome and the check value it keeps, the load in
progress with its flash port, and whether a reset load has ended since power-on (R48 asks for it). -/
structure Loader where
  profile : Profile
  outcome : LoadOutcome
  check : CheckValue
  load : Option Trigger
  flash : FlashPort
  everLoaded : Bool
  deriving DecidableEq, Repr

/-! ## The cage sequencer (chapter 3) and its phase timer (chapter 4) -/

/-- The cage state (00_scope; R50). -/
inductive CageState where
  | empty
  | settle
  | probe
  | held
  | queued
  | powerup
  | staged
  | restore
  | live
  | faulted
  | adopt
  deriving DecidableEq, Repr

/-- The outcome of comparing identities (R61). -/
inductive IdOutcome where
  | none
  | same
  | compatible
  | foreign
  deriving DecidableEq, Repr

/-- The eight cage counters (R76): 16 bits each, wrapping. -/
structure Counters where
  reseats : BitVec 16
  bounces : BitVec 16
  restoresCompleted : BitVec 16
  restoreFailures : BitVec 16
  busyRefusals : BitVec 16
  readDiscards : BitVec 16
  busClears : BitVec 16
  directiveLosses : BitVec 16
  deriving DecidableEq, Repr

/-- A phase (R82). -/
inductive Phase where
  | settle
  | boot
  | power
  | adopt
  deriving DecidableEq, Repr

/-- The use of a phase timer, with the compares of a PHASE use (R81, R82). -/
inductive TimerUse where
  | idle
  | phase (p : Phase) (compareA : Option Nat) (compareB : Nat)
  | wait
  | ret
  deriving DecidableEq, Repr

/-- The phase timer (R81). -/
structure PhaseTimer where
  use : TimerUse
  elapsed : Nat
  deriving DecidableEq, Repr

/-- What one read of an attempt is for (R58, R66, R79). -/
inductive ReadUse where
  /-- A poll of a probe: the byte read is tested (R56). -/
  | poll (mask expected : Byte)
  /-- An identity field: its bytes are kept in field order (R60). -/
  | field
  /-- The power-class byte (R58). -/
  | cls
  deriving DecidableEq, Repr

/-- One located read of an attempt. -/
structure AttemptRead where
  area : Area
  position : Byte
  length : Nat
  purpose : ReadUse
  deriving DecidableEq, Repr

/-- The times a sequencer has captured, and whether the match of the boot phase has been (R86). -/
structure Captures where
  bootTime : Nat
  powerTime : Nat
  bootCaptured : Bool
  deriving DecidableEq, Repr

/-- An attempt in progress (R84): the elapsed value at which it began, the reads still to end (the first is in hand), the
identity bytes and the power-class byte read so far, whether its poll has matched, whether the combined read in hand has its
pointer written, and the captures that stood when it began, to which compare B goes back (R85, R86). -/
structure Attempt where
  began : Nat
  todo : List AttemptRead
  identity : List Byte
  classByte : Byte
  matched : Bool
  pointed : Bool
  kept : Captures
  deriving DecidableEq, Repr

/-- When the next attempt of a phase is due (R83, R84). -/
inductive Due where
  | none
  | compareA
  | at (elapsed : Nat)
  deriving DecidableEq, Repr

/-- Where the busy schedule of a repeated transaction stands (R88). -/
inductive Retry where
  /-- An attempt of the transaction is in hand. -/
  | inHand
  /-- It ended BUSY; the next attempt is due at this elapsed value. -/
  | due (elapsed : Nat)
  /-- It ended BUSY and no further attempt is made: the schedule ends at the write-busy limit. -/
  | limit
  deriving DecidableEq, Repr

/-- The state a sequencer cursor return leads to (R63). -/
inductive ReturnTarget where
  | held
  | live
  | faulted
  deriving DecidableEq, Repr

/-- A cursor return made by the sequencer (R16, R63): the controller cursor it began from and its schedule. -/
structure SeqReturn where
  target : ReturnTarget
  goal : Cursor
  retry : Retry
  deriving DecidableEq, Repr

/-- The sequencer record (R50), with the sequencer's own timing set (R90) and the work it has on the cage port.
`true` on an output is its asserted level.  `started` says that the look at CDA before the transaction in hand has been
made (R157); `carried` is a transaction that is carried to its end after its attempt was stopped (R183). -/
structure Seq where
  state : CageState
  adoptPending : Bool
  decision : Bool
  lastIdentity : Option (List Byte)
  outcome : IdOutcome
  powerClass : Fin 8
  bootTime : Nat
  powerTime : Nat
  mrst : Bool
  mlpw : Bool
  ppres : Bool
  pint : Bool
  counters : Counters
  active : TimingSet
  adoptionDue : Bool
  attempt : Option Attempt
  due : Due
  bootCaptured : Bool
  ret : Option SeqReturn
  started : Bool
  carried : Option Trans
  deriving DecidableEq, Repr

/-! ## The pass-through gate (chapter 7) and the restore traffic buffers (chapter 8) -/

/-- The relay state (R141). -/
inductive RelayState where
  | idle
  | holding
  | relaying
  | hunt
  deriving DecidableEq, Repr

/-- The treatment of the transaction in hand (R140). -/
inductive Treatment where
  | undecided
  | relayCapture
  | relay
  | intercept
  | defer
  | readSlot
  | refuse
  deriving DecidableEq, Repr

/-- How far the transaction in hand has come. -/
inductive Stage where
  | address
  | offset
  /-- The downstream transaction is to be started or its address is unanswered; UCL is stretched. -/
  | downAddress
  /-- The downstream offset byte is unanswered; UCL is stretched. -/
  | downOffset
  | data
  deriving DecidableEq, Repr

/-- An entry of the deferred write queue (R163); `filling` is FILLING, its contrary COMPLETE. -/
structure DeferEntry where
  sheet : Byte
  offset : Byte
  data : List Byte
  filling : Bool
  deriving DecidableEq, Repr

/-- Where the entry of a DEFER write in hand stands (R164, R166, R168). -/
inductive DeferPlace where
  /-- At the tail of the queue, FILLING. -/
  | queued
  /-- Held by the gate alone, after an exit that does not apply it. -/
  | detached (e : DeferEntry)
  /-- The queue was CLOSED: no entry. -/
  | closed
  deriving DecidableEq, Repr

/-- The record of the transaction in hand (R140).  `addressByte` is the 7-bit address with its direction bit below it;
`toModule` says that it is the module address; `data` are the bytes kept for a capture or a directive, whose targets are
`Gate` functions of `offset` and `refSheet`; `nacked` says that a data byte was NACKed, of a write on the way down or of a
read by the controller; `served` marks a read that is served from the slot. -/
structure InHand where
  addressByte : Option Byte
  toModule : Bool
  treatment : Treatment
  stage : Stage
  refSheet : Byte
  offset : Option Byte
  data : List Byte
  sheetSelect : Option Byte
  upperBytes : Nat
  nacked : Bool
  place : DeferPlace
  served : Bool
  deriving DecidableEq, Repr

/-- The use of a stall timer (R94, R156, R160). -/
inductive StallUse where
  | stopped
  | upstream
  | stuck
  | busFree
  /-- The module holds CCL during a relay (R160). -/
  | hold
  deriving DecidableEq, Repr

/-- The gate's side of the cage port (R147, R151). -/
inductive PortState where
  /-- No transaction of the gate is on the cage port: it stands after a stop. -/
  | free
  /-- A transaction of the gate is on the cage port. -/
  | busy
  /-- The cage port is held in the repeated-start position. -/
  | repeated
  deriving DecidableEq, Repr

/-- What the gate last answered on the upper port: the acknowledge bit, or a byte of a read. -/
inductive UpAnswer where
  | none
  | ack
  | nack
  | byte (b : Byte)
  /-- The rest of a read's byte as ones, then NACK (R160). -/
  | cut
  deriving DecidableEq, Repr

/-- The gate record (R140), with the levels the gate last gave on the upper port.  `clearing` says that a bus clear of
the gate is in progress (R158); `checkSet` is the timing set under which the check of CDA that was last begun runs, with
its bus clear (R90; log entry 44). -/
structure Gate where
  relay : RelayState
  ctrl : Cursor
  modc : ModCursor
  inHand : Option InHand
  stallUse : StallUse
  stallElapsed : Nat
  active : TimingSet
  adoptionDue : Bool
  port : PortState
  clearing : Bool
  checkSet : TimingSet
  answer : UpAnswer
  deriving DecidableEq, Repr

/-- The delayed read slot (R162); `fetching` says that the fetch in progress began with this request (R127). -/
inductive ReadSlot where
  | free
  | pending (loc : Cursor) (fetching : Bool)
  | ready (loc : Cursor) (data : List Byte)
  deriving DecidableEq, Repr

/-- A running discard timer (R93): its elapsed value and the read discard time it runs for. -/
structure Discard where
  elapsed : Nat
  limit : Nat
  deriving DecidableEq, Repr

/-- The Restore Traffic Buffers of a cage (R162). -/
structure Buffers where
  queue : List DeferEntry
  closed : Bool
  slot : ReadSlot
  discard : Option Discard
  deriving DecidableEq, Repr

/-! ## Directives (chapter 9) -/

/-- A directive with its code and argument (R175). -/
structure Directive where
  code : Byte
  arg : Option Byte
  deriving DecidableEq, Repr

/-- The reasons of a refused directive (R182). -/
inductive RefuseReason where
  | code
  | argument
  | state
  | journal
  | discarded
  | busy
  deriving DecidableEq, Repr

/-! ## One cage -/

/-- All per-cage state of the part for one cage: the levels on its two input pins, the sequencer record, the phase timer,
the cage record of the journal, the gate, the buffers and the directive slot. -/
structure Cage where
  mpres : Bool
  mint : Bool
  seq : Seq
  timer : PhaseTimer
  journal : CageRecord
  gate : Gate
  buffers : Buffers
  slot : Option Directive
  deriving DecidableEq, Repr

/-! ## The restore engine (chapter 6) -/

/-- The stage of a channel (R109). -/
inductive ChanStage where
  | replay
  | boundary
  | drain
  | ret
  | ending
  deriving DecidableEq, Repr

/-- The pass of a channel (R109). -/
inductive Pass where
  | write
  | verify
  deriving DecidableEq, Repr

/-- The work a channel has in hand on its cage port. -/
inductive ChanWork where
  | idle
  | write (r : Record)
  | postDelay (limit : Nat)
  | verify (r : Record)
  | fetch (loc : Cursor)
  | apply (e : DeferEntry)
  | awaitFill
  | ret (goal : Cursor)
  /-- A cursor return has ended, COMPLETE or not, and the comparison of R173 waits for the gate's transaction. -/
  | awaitCompare (goal : Cursor) (complete : Bool)
  deriving DecidableEq, Repr

/-- The way a restore ends: by completion (R131), by failure (R134), or by FORGET (R137). -/
inductive ChanPath where
  | completion
  | failed
  | forgotten
  deriving DecidableEq, Repr

/-- The channel's look at CDA (R123). -/
inductive StuckWait where
  | none
  | waiting
  | clearing
  deriving DecidableEq, Repr

/-- The channel context (R109), with the work in hand, its busy schedule and its look at CDA. -/
structure ChannelCtx where
  cage : CageId
  stage : ChanStage
  segIndex : Nat
  recIndex : Nat
  pass : Pass
  retriesUsed : Nat
  totalRetries : Nat
  replayed : Nat
  work : ChanWork
  path : ChanPath
  retry : Retry
  pointed : Bool
  stuck : StuckWait
  deriving DecidableEq, Repr

/-- A restore channel (R109): its context while it holds a cage, its delay timer (R92) and its timing set (R90). -/
structure Channel where
  ctx : Option ChannelCtx
  delayRunning : Bool
  delay : Nat
  active : TimingSet
  adoptionDue : Bool
  deriving DecidableEq, Repr

/-! ## Power admission (chapter 5) -/

/-- An entry of the admission list (R95). -/
structure AdmissionEntry where
  cage : CageId
  cls : Fin 8
  draw : Nat
  deriving DecidableEq, Repr

/-- A charge (R95). -/
structure Charge where
  cage : CageId
  draw : Nat
  deriving DecidableEq, Repr

/-- The record of the Power Admission Unit (R95).  The committed draw is `Power.committed`, the sum of the charges. -/
structure Power where
  budget : Nat
  pendingBudget : Option Nat
  draws : Vector Nat 8
  factor : Nat
  list : List AdmissionEntry
  charges : List Charge
  deriving DecidableEq, Repr

/-! ## Fault log and notice port (chapters 10, 11) -/

/-- The ten fault kinds, in the order of R198. -/
inductive FaultKind where
  | corrected
  | uncorrectable
  | verify
  | silent
  | bootTimeout
  | powerTimeout
  | busStuck
  | upstreamStall
  | spill
  | profile
  deriving DecidableEq, Repr

/-- The first-fault record (R196); `cage` and `state` are absent for a fault of the part as a whole. -/
structure FaultEntry where
  kind : FaultKind
  cage : Option CageId
  state : Option CageState
  uptime : BitVec 32
  detail1 : BitVec 16
  detail2 : BitVec 16
  deriving DecidableEq, Repr

/-- The Fault Log (R196); bit n of `later` stands for the kind numbered n + 1, as in LOG-2 (R207). -/
structure FaultLog where
  first : Option FaultEntry
  later : BitVec 10
  laterCount : Nat
  corrected : Nat
  uptime : BitVec 32
  deriving DecidableEq, Repr

/-- The notice kinds (R204). -/
inductive NoticeKind where
  | present
  | removed
  | held
  | live
  | fault
  | spill
  | directiveRefused
  | directiveLost
  | report1
  | report2
  | report3
  | report4
  | report5
  | log1
  | log2
  | profile
  | lost
  | log3
  deriving DecidableEq, Repr

/-- A notice frame without its start byte (R204). -/
structure Frame where
  kind : NoticeKind
  cage : Byte
  a1 : Byte
  a2 : Byte
  a3 : Byte
  a4 : Byte
  a5 : Byte
  deriving DecidableEq, Repr

/-- The notice queue and the lost count (R205). -/
structure NoticePort where
  queue : List Frame
  lost : Nat
  deriving DecidableEq, Repr

end Sys2Proof.Machine
end

