-- ==== Sys2Proof/Machine/Defaults.lean ====
section
/-! DEFINITION. The default profile (R202) and the reset value of each block's state. -/

namespace Sys2Proof.Machine

/-- The defaults of the timing set (R89). -/
def TimingSet.default : TimingSet :=
  { settle := 300, bootFirst := 20, bootLimit := 2000, powerFirst := 100, powerLimit := 8000, poll := 10,
    writeBusy := 25, stall := 40, readDiscard := 80, stuckDetect := 5, clearPulses := 9, verifyRetries := 1 }

/-- The default profile's probes: BASE position 0, mask 0x00, expected value 0x00 (R202). -/
def Probe.default : Probe := { area := .base, position := 0, mask := 0, expected := 0 }

/-- The default profile, installed after ABSENT and BAD (R202). -/
def Profile.default : Profile :=
  { timing := TimingSet.default
    budget := 0
    factor := 16
    draws := Vector.replicate 8 0
    moduleAddr := 0x50
    policy := .early
    compatible := false
    probeL := Probe.default
    probeH := Probe.default
    classPos := 0
    classMask := 0
    classShift := 0
    fields := [{ area := .base, start := 0, length := 1, serial := false }]
    rules := [{ area := .base, lo := 122, hi := 123, action := .intercept, verify := false, postDelay := 0 }]
    fetchLen := 8
    quotas := Vector.replicate 32 0 }

/-- Counters at 0 (R76). -/
def Counters.zero : Counters :=
  { reseats := 0, bounces := 0, restoresCompleted := 0, restoreFailures := 0, busyRefusals := 0, readDiscards := 0,
    busClears := 0, directiveLosses := 0 }

/-- The blank slot: free, never written (R191; log entry 5). -/
def Slot.blank : Slot :=
  { used := false, record := { area := .base, start := 0, data := [], rule := 0, kind := .plain }, syndrome := 0 }

/-- The cage record of R48, with the quota the profile gives the cage. -/
def CageRecord.fresh (quota : Nat) : CageRecord :=
  { state := .opened, closed := [], opened := [], quota := quota, identity := none, incomplete := false, mask := none }

/-- The sequencer record after power-on (R50) under a timing set. -/
def Seq.powerOn (t : TimingSet) : Seq :=
  { state := .empty, adoptPending := false, decision := false, lastIdentity := none, outcome := .none,
    powerClass := 0, bootTime := 0, powerTime := 0, mrst := true, mlpw := true, ppres := false, pint := false,
    counters := Counters.zero, active := t, adoptionDue := false, attempt := none, due := .none,
    bootCaptured := false, ret := none, started := false, carried := none }

/-- The phase timer after a reset: IDLE with value 0 (R81). -/
def PhaseTimer.stopped : PhaseTimer := { use := .idle, elapsed := 0 }

/-- The gate record after a reset (R140), with the module cursor that reset leaves (R10). -/
def Gate.fresh (t : TimingSet) (m : ModCursor) : Gate :=
  { relay := .idle, ctrl := { sheet := 0, pointer := 0 }, modc := m, inHand := none, stallUse := .stopped,
    stallElapsed := 0, active := t, adoptionDue := false, port := .free, clearing := false, checkSet := t, answer := .none }

/-- The buffers after a reset, and whenever the cage is not in RESTORE (R162, R163, R172). -/
def Buffers.fresh : Buffers := { queue := [], closed := false, slot := .free, discard := none }

/-- A free channel (R109). -/
def Channel.fresh (t : TimingSet) : Channel :=
  { ctx := none, delayRunning := false, delay := 0, active := t, adoptionDue := false }

/-- One cage after power-on with its input pins at the given levels (R50, R140, R162). -/
def Cage.powerOn (mpres mint : Bool) : Cage :=
  { mpres := mpres, mint := mint, seq := Seq.powerOn TimingSet.default, timer := PhaseTimer.stopped,
    journal := CageRecord.fresh 0,
    gate := Gate.fresh TimingSet.default { sheet := some 0, pointer := some 0 },
    buffers := Buffers.fresh, slot := none }

/-- The Power Admission Unit with a profile's values and nothing charged or waiting (R95). -/
def Power.fresh (p : Profile) : Power :=
  { budget := p.budget, pendingBudget := none, draws := p.draws, factor := p.factor, list := [], charges := [] }

/-- The slot pool after power-on: every slot free (R48).  The check value is set when the load ends. -/
def Store.fresh : Store := { slots := [], checkValue := .default }

/-- The Fault Log after power-on (R196). -/
def FaultLog.fresh : FaultLog := { first := none, later := 0, laterCount := 0, corrected := 0, uptime := 0 }

/-- The flash port between loads (R201). -/
def FlashPort.idle : FlashPort := { selected := false, sent := [], clocked := 0 }

/-- The flash port at the start of a load (R201): CS_n asserted, the read command byte and three address bytes sent. -/
def FlashPort.begun : FlashPort := { selected := true, sent := [0x03, 0x00, 0x00, 0x00], clocked := 0 }

/-- The Profile Loader after power-on: the power-on load is in progress (R201).  What stands in it before that load
ends is the default profile (log entry 6). -/
def Loader.fresh : Loader :=
  { profile := Profile.default, outcome := .absent, check := .default, load := some .powerOn,
    flash := FlashPort.begun, everLoaded := false }

/-- An empty notice queue (R205). -/
def NoticePort.fresh : NoticePort := { queue := [], lost := 0 }

end Sys2Proof.Machine
end

