-- ==== Sys2Proof/Machine/State.lean ====
section
/-! DEFINITION. The state of the part, its stops, and the state after power-on. -/

namespace Sys2Proof.Machine

/-- The whole state: the 32 cages, the part-wide blocks, the level of RESET_n, and the commands that wait, first in,
first out. -/
structure State where
  cages : Vector Cage 32
  channels : Vector Channel 4
  staged : List CageId
  power : Power
  store : Store
  log : FaultLog
  loader : Loader
  notice : NoticePort
  pendingTiming : Option TimingSet
  lineReset : Bool
  pending : List Instr
  deriving DecidableEq, Repr

/-- The faults of the model: none.  The part stops at no command; its own faults are entries of the Fault Log. -/
inductive Fault where
  deriving DecidableEq, Repr

/-- The refusals of the model. -/
inductive Refusal where
  /-- Raised by exec's arm of a command that has no meaning yet; safe, since nothing is said of that command.  No arm
  raises it: every command has its meaning. -/
  | notModelled (mnemonic : String)
  deriving DecidableEq, Repr

/-- The outcome of a command. -/
abbrev Result := Host.Outcome State Fault Refusal

/-- The state right after power-on with the given levels on the input pins: every block at its power-on values and the
power-on load in progress (R50, R201). -/
def State.powerOn (pins : Vector (Bool × Bool) 32) : State :=
  { cages := pins.map fun p => Cage.powerOn p.1 p.2
    channels := Vector.replicate 4 (Channel.fresh TimingSet.default)
    staged := []
    power := Power.fresh Profile.default
    store := Store.fresh
    log := FaultLog.fresh
    loader := Loader.fresh
    notice := NoticePort.fresh
    pendingTiming := none
    lineReset := false
    pending := [] }

/-- The state after power-on with no module present and no interrupt standing (R50; log entry 1). -/
def State.reset : State := State.powerOn (Vector.replicate 32 (false, false))

end Sys2Proof.Machine
end

