-- ==== Sys2Proof/Machine/Code.lean ====
section
/-! DEFINITION. The code of the Journal Store: the syndromes of the bits of a slot, its check bits, what a slot holds
under its syndrome, and the class of a read (R191, R192; log entry 4). -/

namespace Sys2Proof.Machine

/-! ## The code -/

/-- The number of bits set in a byte. -/
def bitCount (b : Byte) : Nat := ((List.range 8).filter fun i => b.getLsbD i).length

/-- The syndromes the code may give to a data or field bit (R192): an odd number of bits set, three or more. -/
def oddSyndromes : List Byte :=
  ((List.range 256).map (BitVec.ofNat 8)).filter fun b => bitCount b % 2 == 1 && decide (3 ≤ bitCount b)

/-- Takes `n` syndromes, one after another, out of those left: `order` gives the place of each, counted round. -/
def pickColumns (order : Nat → Nat) (left : List Byte) : Nat → List Byte
  | 0 => []
  | n + 1 =>
    let i := order n % left.length
    left.getD i 0 :: pickColumns order (left.eraseIdx i) n

/-- The number of data and field bits of a slot, as `Record.encoded` lays them out. -/
def codedBits : Nat := 112

/-- The syndrome of each data and field bit, by bit number (R192): each its own. -/
def columns : List Byte := pickColumns Config.columnOrder oddSyndromes codedBits

/-- Bit `i` of a list of bytes, the first byte's low bit first. -/
def bitAt (bs : List Byte) (i : Nat) : Bool := (bs.getD (i / 8) 0).getLsbD (i % 8)

/-- Inverts bit `i` of a list of bytes. -/
def flipBit (bs : List Byte) (i : Nat) : List Byte := bs.modify (i / 8) fun b => b ^^^ BitVec.twoPow 8 (i % 8)

/-- What bit `i` adds to the check bits of a record: its syndrome, where it is set. -/
def columnOf (bs : List Byte) (i : Nat) : Byte := if bitAt bs i then columns.getD i 0 else 0

/-- The 8 check bits of the fields and data of a record (R191): the syndromes of the bits that are set, added bit by bit. -/
def checkCode (bs : List Byte) : Byte := ((List.range codedBits).map (columnOf bs)).foldr (· ^^^ ·) 0

/-- The data or field bit a syndrome names, if it names one (R192). -/
def namedBit? (syndrome : Byte) : Option Nat := columns.findIdx? fun b => b == syndrome

/-! ## What a slot holds -/

/-- The fields and data of a record as the code takes them (R191): six bytes of fields and eight of data. -/
def Record.encoded (r : Record) : List Byte :=
  [match r.area with
    | .base => 0
    | .sheet _ => 1,
   match r.area with
    | .base => 0
    | .sheet n => n,
   BitVec.ofNat 8 r.start, BitVec.ofNat 8 r.data.length, BitVec.ofNat 8 r.rule,
   match r.kind with
    | .plain => 0
    | .marker => 1] ++ (List.range 8).map fun i => r.data.getD i 0

/-- The fields and data of a slot as they stand in it: those of its record, with the bit inverted that the syndrome
names. -/
def Slot.stored (x : Slot) : List Byte :=
  match namedBit? x.syndrome with
  | some i => flipBit x.record.encoded i
  | none => x.record.encoded

/-- The 8 check bits a slot holds beside them (R191): the syndrome is the difference between these and the check bits
recomputed from what is stored (R192). -/
def Slot.checkBits (x : Slot) : Byte := checkCode x.stored ^^^ x.syndrome

/-- The fields and data that a CORRECTED read gives: those stored, with the bit restored that the syndrome names (R192). -/
def Slot.restored (x : Slot) : List Byte :=
  match namedBit? x.syndrome with
  | some i => flipBit x.stored i
  | none => x.stored

/-- The slot after a correction write-back (R193): the restored record, which is `x.record` (`Slot.restored_eq`), with check
bits computed afresh. -/
def Slot.rewritten (x : Slot) : Slot := { x with syndrome := 0 }

/-! ## The class of a read -/

/-- The class of a slot read (R192). -/
inductive ReadClass where
  | clean
  | corrected
  | uncorrectable
  deriving DecidableEq, Repr

/-- The class a syndrome gives (R192): 0x00 CLEAN; one bit set names the check bit itself and is CORRECTED; an even number
names no bit and is UNCORRECTABLE; an odd number of three or more is CORRECTED where it names a data or field bit. -/
def classify (syndrome : Byte) : ReadClass :=
  if syndrome = 0 then .clean
  else if bitCount syndrome = 1 then .corrected
  else if bitCount syndrome % 2 = 0 then .uncorrectable
  else if (namedBit? syndrome).isSome then .corrected
  else .uncorrectable

end Sys2Proof.Machine
end

