-- ==== Sys2Proof/Machine/Flags.lean ====
section
/-! DEFINITION. The codes that notices and REPORT show, the status bits they pack, and the output levels a cage state
gives. -/

namespace Sys2Proof.Machine

/-! ## Codes of R204 -/

/-- The cage state codes (R204). -/
def CageState.code : CageState → Nat
  | .empty => 0
  | .settle => 1
  | .probe => 2
  | .held => 3
  | .queued => 4
  | .powerup => 5
  | .staged => 6
  | .restore => 7
  | .live => 8
  | .faulted => 9
  | .adopt => 10

/-- The code of a fault's cage state, NONE 15 for the part as a whole (R196, R204). -/
def stateCode : Option CageState → Nat
  | none => 15
  | some st => st.code

/-- The outcome codes (R204). -/
def IdOutcome.code : IdOutcome → Nat
  | .none => 0
  | .same => 1
  | .compatible => 2
  | .foreign => 3

/-- The journal state codes (R204). -/
def JournalState.code : JournalState → Nat
  | .opened => 0
  | .frozen => 1
  | .spilled => 2
  | .damaged => 3

/-- The fault kinds numbered 1–10 in the order of R198 (R204). -/
def FaultKind.code : FaultKind → Nat
  | .corrected => 1
  | .uncorrectable => 2
  | .verify => 3
  | .silent => 4
  | .bootTimeout => 5
  | .powerTimeout => 6
  | .busStuck => 7
  | .upstreamStall => 8
  | .spill => 9
  | .profile => 10

/-- The refusal reason codes (R204). -/
def RefuseReason.byte : RefuseReason → Byte
  | .code => 1
  | .argument => 2
  | .state => 3
  | .journal => 4
  | .discarded => 5
  | .busy => 6

/-- The spill cause codes (R198, R204). -/
def SpillCause.code : SpillCause → Nat
  | .quota => 1
  | .pool => 2
  | .segments => 3

/-- The trigger codes (R198, R204). -/
def Trigger.code : Trigger → Nat
  | .powerOn => 1
  | .lineReset => 2
  | .reload => 3

/-- The load outcome codes (R204). -/
def LoadOutcome.code : LoadOutcome → Byte
  | .good => 1
  | .absent => 2
  | .bad => 3

/-- The notice kind codes (R204). -/
def NoticeKind.code : NoticeKind → Byte
  | .present => 0x01
  | .removed => 0x02
  | .held => 0x03
  | .live => 0x04
  | .fault => 0x05
  | .spill => 0x06
  | .directiveRefused => 0x07
  | .directiveLost => 0x08
  | .report1 => 0x09
  | .report2 => 0x0A
  | .report3 => 0x0B
  | .report4 => 0x0C
  | .report5 => 0x0D
  | .log1 => 0x0E
  | .log2 => 0x0F
  | .profile => 0x10
  | .lost => 0x11
  | .log3 => 0x12

/-- The phase timer use codes (R206). -/
def TimerUse.code : TimerUse → Nat
  | .idle => 0
  | .phase _ _ _ => 1
  | .wait => 2
  | .ret => 3

/-- The channel stage codes (R206). -/
def ChanStage.code : ChanStage → Nat
  | .replay => 0
  | .boundary => 1
  | .drain => 2
  | .ret => 3
  | .ending => 4

/-- The delayed read slot codes (R206). -/
def ReadSlot.code : ReadSlot → Nat
  | .free => 0
  | .pending _ _ => 1
  | .ready _ _ => 2

/-- The cage field of a frame for a cage (R204). -/
def cageByte (k : CageId) : Byte := BitVec.ofNat 8 k.val

/-- The cage field of a part-wide frame (00_scope, Conventions; R204). -/
def partByte : Byte := 0xFF

/-- The high byte of a 16-bit value. -/
def hiByte (n : Nat) : Byte := BitVec.ofNat 8 (n / 256)

/-- The low byte of a 16-bit value. -/
def loByte (n : Nat) : Byte := BitVec.ofNat 8 n

/-- A byte from a bit list, bit 7 first. -/
def packBits (bs : List Bool) : Byte := BitVec.ofNat 8 (bs.foldl (fun acc b => 2 * acc + b.toNat) 0)

/-- The frame as it goes out on NTX: the start byte, the kind, the cage and the five argument bytes (R204). -/
def Frame.bytes (f : Frame) : List Byte := [0xA5, f.kind.code, f.cage, f.a1, f.a2, f.a3, f.a4, f.a5]

/-! ## Levels -/

/-- The states in which the gate relays controller traffic and PINT_n follows MINT_n (R53, R142). -/
def CageState.relays : CageState → Bool
  | .live => true
  | .held => true
  | .faulted => true
  | _ => false

/-- PPRES_n by presence policy and cage state (R52). -/
def ppresFor : PresencePolicy → CageState → Bool
  | .early, .empty => false
  | .early, .settle => false
  | .early, _ => true
  | .late, st => st.relays

/-- PINT_n by cage state and MINT_n (R53). -/
def pintFor (st : CageState) (mint : Bool) : Bool := st.relays && mint

/-- MRST_n at the step into a state (R51): asserted into EMPTY and SETTLE, released into PROBE, else kept. -/
def mrstFor (st : CageState) (held : Bool) : Bool :=
  match st with
  | .empty => true
  | .settle => true
  | .probe => false
  | _ => held

/-- MLPW at the step into a state (R51): asserted into EMPTY and SETTLE, released at admission into POWERUP, else kept. -/
def mlpwFor (st : CageState) (held : Bool) : Bool :=
  match st with
  | .empty => true
  | .settle => true
  | .powerup => false
  | _ => held

/-- The states whose entry makes the restore decision NO (R50). -/
def CageState.clearsDecision : CageState → Bool
  | .empty => true
  | .settle => true
  | .held => true
  | .live => true
  | .faulted => true
  | _ => false

/-- A journal is usable when its state is OPEN or FROZEN (R23). -/
def JournalState.usable : JournalState → Bool
  | .opened => true
  | .frozen => true
  | _ => false

/-- The state a cage shows in a fault or a notice: ADOPT while it is ADOPT-pending (R77). -/
def Seq.shown (q : Seq) : CageState := if q.adoptPending then .adopt else q.state

end Sys2Proof.Machine
end

