-- ==== Sys2Proof/Machine/Operands.lean ====
section
/-! DEFINITION. Module transactions: the pointer's advance, the resolution of targets, the accounting of a cursor, and the
sequences of transactions that make up the part's own accesses (chapter 1). -/

namespace Sys2Proof.Machine

/-! ## Pointer and targets -/

/-- One advance step (R2): from 0–254 one more, from 255 to 128. -/
def advance (p : Byte) : Byte := if p = 255 then 128 else p + 1

/-- `n` advance steps (R8). -/
def advanceN (p : Byte) : Nat → Byte
  | 0 => p
  | n + 1 => advanceN (advance p) n

/-- The area of a byte at a position under a reference sheet (R9). -/
def areaOf (sheet position : Byte) : Area := if position.toNat < 128 then .base else .sheet sheet

/-- The resolved target of one byte of a write, with the byte (R9). -/
structure Target where
  area : Area
  position : Byte
  value : Byte
  deriving DecidableEq, Repr

/-- The targets of a write's data bytes, in order, from its offset and its reference sheet (R9). -/
def targets (sheet : Byte) (position : Byte) : List Byte → List Target
  | [] => []
  | b :: bs => { area := areaOf sheet position, position := position, value := b } :: targets sheet (advance position) bs

/-- The value of the last byte among `bs`, written from `position`, that stands at position 125 (R3). -/
def selectValue (position : Byte) : List Byte → Option Byte
  | [] => none
  | b :: bs => (selectValue (advance position) bs).or (if position = 125 then some b else none)

/-! ## Cursor accounting (R10) -/

/-- The module cursor after the module took or supplied `n` bytes: the pointer advances, an UNKNOWN one stays UNKNOWN. -/
def ModCursor.step (m : ModCursor) (n : Nat) : ModCursor := { m with pointer := m.pointer.map (advanceN · n) }

/-- The module cursor after a write of which the module took the offset and `data` (R10, R3). -/
def ModCursor.wrote (m : ModCursor) (offset : Byte) (data : List Byte) : ModCursor :=
  { sheet := (selectValue offset data).or m.sheet, pointer := some (advanceN offset data.length) }

/-- The bytes of a read of `n`: the bytes supplied, the open-drain line's 0xFF where none is driven (log entry 8). -/
def readBytes (n : Nat) (bs : List Byte) : List Byte := (bs ++ List.replicate n 0xFF).take n

/-- The module cursor after a transaction of the part with its answer (R10).  A REFUSED write took the bytes before the
refused one; a pointer write or a read has no data byte of its own to refuse, so it moves nothing then (log entry 9). -/
def ModCursor.account (m : ModCursor) : Trans → Response → ModCursor
  | _, .held => m
  | _, .busy => m
  | .select n, .taken _ => m.wrote 125 [n]
  | .select _, .refused _ => m.wrote 125 []
  | .write o d, .taken _ => m.wrote o d
  | .write o d, .refused n => m.wrote o (d.take (min n (d.length - 1)))
  | .pointer p, .taken _ => { m with pointer := some p }
  | .pointer _, .refused _ => m
  | .read n, .taken _ => m.step n
  | .read _, .refused _ => m

/-! ## Accesses -/

/-- One access of the part: a sequence of transactions made for one purpose. -/
inductive Access where
  /-- The located write of R14. -/
  | write (area : Area) (start : Byte) (data : List Byte)
  /-- The located read of R14. -/
  | read (area : Area) (position : Byte) (n : Nat)
  /-- The delayed-read fetch of R126. -/
  | fetch (loc : Cursor) (n : Nat)
  /-- The application of a deferred write (R129). -/
  | apply (sheet offset : Byte) (data : List Byte)
  /-- The cursor return of R16. -/
  | ret (goal : Cursor)
  deriving DecidableEq, Repr

/-- The sheet an access needs the module to hold before its next transaction, if any: that of a SHEET location (R14), and
always that of a fetch (R126), of a deferred write (R129) and of a cursor return (R16). -/
def Access.sheet? : Access → Option Byte
  | .write (.sheet n) _ _ => some n
  | .write .base _ _ => none
  | .read (.sheet n) _ _ => some n
  | .read .base _ _ => none
  | .fetch loc _ => some loc.sheet
  | .apply n _ _ => some n
  | .ret goal => some goal.sheet

/-- The transaction of an access that follows its sheet select; `pointed` says that its pointer is written. -/
def Access.body (a : Access) (pointed : Bool) : Trans :=
  match a with
  | .write _ p d => .write p d
  | .apply _ o d => .write o d
  | .ret goal => .pointer goal.pointer
  | .read _ p n => if pointed then .read n else .pointer p
  | .fetch loc n => if pointed then .read n else .pointer loc.pointer

/-- The transaction an access makes next: the sheet select where the module's sheet differs from the wanted one or is
UNKNOWN (R14, R16, R126, R129), else its body.  A combined read whose pointer is written goes on with its read. -/
def Access.next (a : Access) (m : ModCursor) (pointed : Bool) : Trans :=
  match a.sheet? with
  | none => a.body pointed
  | some n => if pointed then a.body pointed else if m.sheet = some n then a.body false else .select n

/-- Whether the access is over when this transaction of it is TAKEN. -/
def Access.endsWith (a : Access) (t : Trans) : Bool :=
  match a, t with
  | _, .select _ => false
  | .ret _, .pointer _ => true
  | _, .pointer _ => false
  | _, .write _ _ => true
  | _, .read _ => true

/-- What the given answers make of an access. -/
inductive AccessEnd where
  /-- Its transaction in hand is unanswered; `pointed` as in `Access.body`. -/
  | more (pointed : Bool)
  /-- The look at CDA before its next transaction sees the line low. -/
  | held (pointed : Bool)
  /-- A transaction was answered BUSY: the access stops there (R14). -/
  | busy
  /-- The data byte number `n` of this transaction was NACKed: the access stops there (R14). -/
  | refused (t : Trans) (n : Nat)
  /-- All TAKEN, with the bytes read. -/
  | done (bytes : List Byte)
  deriving DecidableEq, Repr

/-- The module cursor, the end, the answers not used, and whether a sheet select was TAKEN on the way, after which the next
transaction's busy schedule is one of its own (R88; a combined read is one transaction of it, R116). -/
structure AccessRun where
  modc : ModCursor
  ended : AccessEnd
  rest : List Response
  progress : Bool
  deriving DecidableEq, Repr

/-- Runs an access on the answers of its transactions, one answer a transaction, and stops at the first BUSY or
REFUSED (R14). -/
def Access.run (a : Access) (m : ModCursor) (pointed progress : Bool) : List Response → AccessRun
  | [] => { modc := m, ended := .more pointed, rest := [], progress := progress }
  | r :: rs =>
    let t := a.next m pointed
    let m' := m.account t r
    match r with
    | .held => { modc := m, ended := .held pointed, rest := rs, progress := progress }
    | .busy => { modc := m', ended := .busy, rest := rs, progress := progress }
    | .refused n =>
      match t with
      | .select _ => { modc := m', ended := .refused t 0, rest := rs, progress := progress }
      | .write _ d => { modc := m', ended := .refused t (min n (d.length - 1)), rest := rs, progress := progress }
      | .pointer _ => { modc := m', ended := .busy, rest := rs, progress := progress }
      | .read _ => { modc := m', ended := .busy, rest := rs, progress := progress }
    | .taken bs =>
      match t with
      | .select _ => a.run m' false true rs
      | .pointer _ =>
        if a.endsWith t then { modc := m', ended := .done [], rest := rs, progress := progress }
        else a.run m' true progress rs
      | .write _ _ => { modc := m', ended := .done [], rest := rs, progress := progress }
      | .read n => { modc := m', ended := .done (readBytes n bs), rest := rs, progress := progress }

/-- The located read of an attempt's read. -/
def AttemptRead.access (r : AttemptRead) : Access := .read r.area r.position r.length

/-- The located write of a record (R114). -/
def Record.writeAccess (r : Record) : Access := .write r.area (BitVec.ofNat 8 r.start) r.data

/-- The located read that reads a record back (R119). -/
def Record.readAccess (r : Record) : Access := .read r.area (BitVec.ofNat 8 r.start) r.data.length

/-- The access that applies a deferred entry (R129). -/
def DeferEntry.access (e : DeferEntry) : Access := .apply e.sheet e.offset e.data

end Sys2Proof.Machine
end

