-- ==== Sys2Proof/Machine/Ops.lean ====
section
/-! DEFINITION. The named operations over the state: access to one cage's blocks and to a channel, the slot memory, the
notice queue and the Fault Log. -/

namespace Sys2Proof.Machine

/-! ## One cage's blocks -/

/-- The state of cage `k`. -/
def State.cage (s : State) (k : CageId) : Cage := s.cages[k]

/-- Changes cage `k` alone. -/
def State.modCage (s : State) (k : CageId) (f : Cage → Cage) : State := { s with cages := s.cages.set k (f (s.cage k)) }

/-- Changes the sequencer record of cage `k`. -/
def State.modSeq (s : State) (k : CageId) (f : Seq → Seq) : State := s.modCage k fun c => { c with seq := f c.seq }

/-- Sets the phase timer of cage `k`. -/
def State.setTimer (s : State) (k : CageId) (t : PhaseTimer) : State := s.modCage k fun c => { c with timer := t }

/-- Changes the cage record of cage `k`. -/
def State.modJournal (s : State) (k : CageId) (f : CageRecord → CageRecord) : State :=
  s.modCage k fun c => { c with journal := f c.journal }

/-- Changes the gate record of cage `k`. -/
def State.modGate (s : State) (k : CageId) (f : Gate → Gate) : State := s.modCage k fun c => { c with gate := f c.gate }

/-- Changes the Restore Traffic Buffers of cage `k`. -/
def State.modBuffers (s : State) (k : CageId) (f : Buffers → Buffers) : State :=
  s.modCage k fun c => { c with buffers := f c.buffers }

/-- Sets the directive slot of cage `k`. -/
def State.setSlot (s : State) (k : CageId) (d : Option Directive) : State := s.modCage k fun c => { c with slot := d }

/-- Changes the cage counters of cage `k`. -/
def State.count (s : State) (k : CageId) (f : Counters → Counters) : State :=
  s.modSeq k fun q => { q with counters := f q.counters }

/-- The cage state of cage `k`. -/
def State.stateOf (s : State) (k : CageId) : CageState := (s.cage k).seq.state

/-- The installed profile. -/
def State.profile (s : State) : Profile := s.loader.profile

/-- Whether a load made at power-on or at line-reset release is still in progress (R78, R143). -/
def State.resetLoading (s : State) : Bool :=
  match s.loader.load with
  | some .powerOn => true
  | some .lineReset => true
  | _ => false

/-- Whether the blocks take events: RESET_n is released and no reset load is in progress (R77, R78, R95, R143). -/
def State.inService (s : State) : Bool := !s.lineReset && !s.resetLoading

/-! ## Channels -/

/-- Changes channel `c` alone. -/
def State.modChannel (s : State) (c : Fin 4) (f : Channel → Channel) : State :=
  { s with channels := s.channels.set c (f s.channels[c]) }

/-- Sets the context of channel `c`. -/
def State.setCtx (s : State) (c : Fin 4) (x : ChannelCtx) : State := s.modChannel c fun h => { h with ctx := some x }

/-- Starts the delay timer of channel `c` from 0 (R92). -/
def State.startDelay (s : State) (c : Fin 4) : State :=
  s.modChannel c fun h => { h with delayRunning := true, delay := 0 }

/-- Whether a channel holds cage `k`. -/
def Channel.holds (h : Channel) (k : CageId) : Bool :=
  match h.ctx with
  | some x => x.cage = k
  | none => false

/-- The channel that holds cage `k`, with its context (R111: each cage in RESTORE holds a different channel). -/
def State.channelOf (s : State) (k : CageId) : Option (Fin 4 × ChannelCtx) :=
  match (List.finRange 4).find? fun c => s.channels[c].holds k with
  | some c =>
    match s.channels[c].ctx with
    | some x => some (c, x)
    | none => none
  | none => none

/-- The lowest-numbered free channel (R111). -/
def State.freeChannel (s : State) : Option (Fin 4) :=
  (List.finRange 4).find? fun c => s.channels[c].ctx.isNone

/-- Releases channel `c`: its context is discarded and its delay timer stopped with nothing owed (R109). -/
def State.releaseChannel (s : State) (c : Fin 4) : State :=
  s.modChannel c fun h => { h with ctx := none, delayRunning := false, delay := 0 }

/-! ## The slot memory (R19, R191) -/

/-- The slot memory: (slot number, slot) pairs, numbers strictly rising, no pair equal to what an unlisted slot reads as. -/
abbrev SlotMem := List (Nat × Slot)

/-- What slot `i` holds; an unlisted slot is blank. -/
def SlotMem.read (m : SlotMem) (i : Nat) : Slot :=
  match m with
  | [] => Slot.blank
  | (a, x) :: t => if a = i then x else SlotMem.read t i

/-- One pair in front of a memory, unless its slot is blank. -/
def SlotMem.cons (i : Nat) (x : Slot) (m : SlotMem) : SlotMem := if x = Slot.blank then m else (i, x) :: m

/-- Writes slot `i`, keeping the canonical form. -/
def SlotMem.write (m : SlotMem) (i : Nat) (x : Slot) : SlotMem :=
  match m with
  | [] => SlotMem.cons i x []
  | (a, y) :: t =>
    if i < a then SlotMem.cons i x ((a, y) :: t)
    else if i = a then SlotMem.cons i x t
    else (a, y) :: SlotMem.write t i x

/-- The canonical form, of the pairs above the number `lo`. -/
def SlotMem.wfFrom (lo : Nat) : SlotMem → Bool
  | [] => true
  | (a, x) :: t => lo ≤ a && x ≠ Slot.blank && SlotMem.wfFrom (a + 1) t

/-- The canonical form of the slot memory. -/
def SlotMem.wf (m : SlotMem) : Bool := SlotMem.wfFrom 0 m

/-- The number of slots in use. -/
def SlotMem.used (m : SlotMem) : Nat := (m.filter fun p => p.2.used).length

/-- The lowest free slot number from `i` on (R19). -/
def SlotMem.lowestFreeFrom (i : Nat) : SlotMem → Nat
  | [] => i
  | (a, x) :: t => if a = i && x.used then SlotMem.lowestFreeFrom (i + 1) t else i

/-- The lowest-numbered free slot (R19). -/
def SlotMem.lowestFree (m : SlotMem) : Nat := SlotMem.lowestFreeFrom 0 m

/-- Frees slot `i`: it keeps its contents and check bits until a record is written into it (R191). -/
def SlotMem.free (m : SlotMem) (i : Nat) : SlotMem := SlotMem.write m i { SlotMem.read m i with used := false }

/-- The number of record slots (R19). -/
def slotCount : Nat := 2048

/-- The free count: the number of free slots (R19). -/
def Store.freeCount (st : Store) : Nat := slotCount - SlotMem.used st.slots

/-- Changes the slots alone. -/
def State.modSlots (s : State) (f : SlotMem → SlotMem) : State := { s with store := { s.store with slots := f s.store.slots } }

/-! ## Views of the journal (R18, R21, R22) -/

/-- The segment list, oldest first; the last is the open segment (R21). -/
def CageRecord.segments (j : CageRecord) : List (List Nat) := j.closed ++ [j.opened]

/-- The slots of all records in journal order (R21). -/
def CageRecord.slots (j : CageRecord) : List Nat := j.segments.flatten

/-- The record count (R22). -/
def CageRecord.count (j : CageRecord) : Nat := j.slots.length

/-- The record in a slot. -/
def State.recordIn (s : State) (i : Nat) : Record := (SlotMem.read s.store.slots i).record

/-! ## Power views (R95) -/

/-- The committed draw: the sum of the draws of every charge. -/
def Power.committed (p : Power) : Nat := (p.charges.map Charge.draw).sum

/-- The limit of the admission test: the budget, or the lower of it and the pending budget (R100). -/
def Power.limit (p : Power) : Nat :=
  match p.pendingBudget with
  | none => p.budget
  | some b => min p.budget b

/-! ## Notices (R204, R205) -/

/-- A notice submitted to the queue: it joins the tail, or is dropped and counted when 32 frames are queued (R205). -/
def NoticePort.submit (n : NoticePort) (f : Frame) : NoticePort :=
  if n.queue.length < 32 then { n with queue := n.queue ++ [f] } else { n with lost := min (n.lost + 1) 255 }

/-- Submits a notice (R205). -/
def State.submit (s : State) (f : Frame) : State := { s with notice := s.notice.submit f }

/-- Submits several notices in order, each meeting the queue on its own (R188). -/
def State.submitAll (s : State) (fs : List Frame) : State := { s with notice := fs.foldl NoticePort.submit s.notice }

/-! ## The Fault Log (R196, R197) -/

/-- The bit of a fault kind in the later-kinds set (R196, R207). -/
def FaultKind.bit (f : FaultKind) : BitVec 10 := BitVec.ofNat 10 (2 ^ (f.code - 1))

/-- Takes a fault into the log: it fills an absent first-fault record, else joins the later summary (R197 step 1). -/
def FaultLog.take (l : FaultLog) (e : FaultEntry) : FaultLog :=
  match l.first with
  | none => { l with first := some e }
  | some _ => { l with later := l.later ||| e.kind.bit, laterCount := min (l.laterCount + 1) 255 }

/-- The FAULT notice of a fault (R204). -/
def faultFrame (e : FaultEntry) : Frame :=
  { kind := .fault
    cage := match e.cage with
      | some k => cageByte k
      | none => partByte
    a1 := BitVec.ofNat 8 (e.kind.code * 16 + stateCode e.state)
    a2 := hiByte e.detail1.toNat
    a3 := loByte e.detail1.toNat
    a4 := hiByte e.detail2.toNat
    a5 := loByte e.detail2.toNat }

/-- Sets the Fault Log. -/
def State.setLog (s : State) (l : FaultLog) : State := { s with log := l }

/-- The entry of a fault logged now: it is stamped with the uptime and shows the cage state held at that moment (R197). -/
def State.faultEntry (s : State) (kind : FaultKind) (cage : Option CageId) (d1 d2 : Nat) : FaultEntry :=
  { kind := kind, cage := cage, state := cage.map fun k => (s.cage k).seq.shown, uptime := s.log.uptime,
    detail1 := BitVec.ofNat 16 d1, detail2 := BitVec.ofNat 16 d2 }

/-- Takes a fault's entry: the log takes it, and its FAULT notice is submitted (R197). -/
def State.takeFault (s : State) (e : FaultEntry) : State :=
  { s with log := s.log.take e, notice := s.notice.submit (faultFrame e) }

/-- Logs a fault (R197). -/
def State.logFault (s : State) (kind : FaultKind) (cage : Option CageId) (d1 d2 : Nat) : State :=
  s.takeFault (s.faultEntry kind cage d1 d2)

/-! ## Slot reads with their check (R192–R194) -/

/-- Reads slot `i` for cage `k` with the check of R192.  CORRECTED writes the restored record back, counts and logs (R193);
UNCORRECTABLE logs and makes the journal DAMAGED (R194).  The Bool says whether the reader gets the record. -/
def State.readSlot (s : State) (k : CageId) (i : Nat) : State × Bool :=
  let x := SlotMem.read s.store.slots i
  match classify x.syndrome with
  | .clean => (s, true)
  | .corrected =>
    let s1 := s.modSlots fun m => SlotMem.write m i x.rewritten
    let s2 := s1.setLog { s1.log with corrected := min (s1.log.corrected + 1) 65535 }
    (s2.logFault .corrected (some k) i x.syndrome.toNat, true)
  | .uncorrectable =>
    let s1 := s.logFault .uncorrectable (some k) i x.syndrome.toNat
    (s1.modJournal k fun j => { j with state := .damaged }, false)

end Sys2Proof.Machine
end

