-- ==== Sys2Proof/Machine/Journal.lean ====
section
/-! DEFINITION. Capture: the resolution of a write into pieces, coalescing on a working copy, the bounds, the commit and
the spill (chapter 2). -/

namespace Sys2Proof.Machine

/-! ## Rules and resolution (R25, R26, R30–R33) -/

/-- Whether a rule's area takes a byte's area (R25). -/
def RuleArea.takes : RuleArea → Area → Bool
  | .base, .base => true
  | .sheets lo hi, .sheet n => lo.toNat ≤ n.toNat && n.toNat ≤ hi.toNat
  | _, _ => false

/-- Whether a byte at a target matches a rule (R25); position 125 matches none. -/
def Rule.takes (r : Rule) (area : Area) (position : Byte) : Bool :=
  position ≠ 125 && r.area.takes area && r.lo.toNat ≤ position.toNat && position.toNat ≤ r.hi.toNat

/-- The index of the first rule a byte matches, counting from `i`, with the rule (R25). -/
def firstRule (area : Area) (position : Byte) (i : Nat) : List Rule → Option (Nat × Rule)
  | [] => none
  | r :: rs => if r.takes area position then some (i, r) else firstRule area position (i + 1) rs

/-- A byte's rule under a capture table (R25). -/
def ruleOf (table : List Rule) (area : Area) (position : Byte) : Option (Nat × Rule) := firstRule area position 0 table

/-- The kind of the record a byte goes into (R26): none where it is not journaled. -/
def Action.kind? : Action → Option Kind
  | .record => some .plain
  | .marker => some .marker
  | .ignore => none
  | .intercept => none

/-- A kept byte: its target with the rule index and the kind (R31). -/
structure Kept where
  target : Target
  rule : Nat
  kind : Kind
  deriving DecidableEq, Repr

/-- What R31 makes of one byte: kept, or fallen out. -/
def keep? (table : List Rule) (t : Target) : Option Kept :=
  match ruleOf table t.area t.position with
  | none => none
  | some (i, r) =>
    match r.action.kind? with
    | none => none
    | some kd => some { target := t, rule := i, kind := kd }

/-- A run under construction is a record in the making (R32). -/
def Kept.start (x : Kept) : Record :=
  { area := x.target.area, start := x.target.position.toNat, data := [x.target.value], rule := x.rule, kind := x.kind }

/-- Whether a kept byte continues a run: the same area, sheet and rule, one position beyond the last (R32). -/
def Record.continuedBy (r : Record) (x : Kept) : Bool :=
  x.target.area = r.area && x.rule = r.rule && x.target.position.toNat = r.start + r.data.length

/-- The runs of a write (R32): maximal runs of kept bytes; a byte that fell out separates those around it.  `open?` is the
run under construction. -/
def runsFrom (open? : Option Record) : List (Option Kept) → List Record
  | [] => open?.toList
  | none :: xs => open?.toList ++ runsFrom none xs
  | some x :: xs =>
    match open? with
    | none => runsFrom (some x.start) xs
    | some r =>
      if r.continuedBy x then runsFrom (some { r with data := r.data ++ [x.target.value] }) xs
      else r :: runsFrom (some x.start) xs

/-- The pieces of a run (R33): `n` further pieces of 8 bytes at most, counted from the run's first byte. -/
def piecesFrom (r : Record) : Nat → List Record
  | 0 => []
  | n + 1 =>
    if r.data = [] then []
    else
      { r with data := r.data.take 8 } :: piecesFrom { r with start := r.start + 8, data := r.data.drop 8 } n

/-- The pieces of a run (R33). -/
def Record.pieces (r : Record) : List Record := piecesFrom r r.data.length

/-- The pieces of a handed-over write, in transaction order (R30–R33). -/
def resolve (table : List Rule) (sheet offset : Byte) (data : List Byte) : List Record :=
  ((runsFrom none ((targets sheet offset data).map (keep? table))).map Record.pieces).flatten

/-! ## Coalescing (R34–R37) -/

/-- A record of the working copy: its slot (absent for a new record), the record, and whether it differs from the slot. -/
structure WorkRec where
  slot : Option Nat
  record : Record
  changed : Bool
  deriving DecidableEq, Repr

/-- The working copy of a journal (R38): the closed segments, the open segment, and the slots whose records were read, in
the order of the reads. -/
structure Work where
  closed : List (List WorkRec)
  opened : List WorkRec
  reads : List Nat
  deriving DecidableEq, Repr

/-- Whether two records cover a common position of one area and sheet (R34). -/
def Record.meets (e n : Record) : Bool :=
  e.area = n.area && e.start < n.start + n.data.length && n.start < e.start + e.data.length

/-- The bytes of a record below the positions another covers. -/
def Record.below (e n : Record) : List Byte := e.data.take (n.start - e.start)

/-- The bytes of a record above the positions another covers. -/
def Record.above (e n : Record) : List Byte := e.data.drop (n.start + n.data.length - e.start)

/-- What entering the piece `n` leaves of a record (R34, R35): itself where they share no position, nothing where it
vanishes, one shrunk record, or the two parts of a split, of which a marker's lower part becomes PLAIN. -/
def WorkRec.cut (n : Record) (w : WorkRec) : List WorkRec :=
  let e := w.record
  if e.meets n then
    let low := e.below n
    let up := e.above n
    let upper : Record := { e with start := n.start + n.data.length, data := up }
    if low = [] then
      if up = [] then [] else [{ w with record := upper, changed := true }]
    else if up = [] then [{ w with record := { e with data := low }, changed := true }]
    else
      [{ w with record := { e with data := low, kind := .plain }, changed := true },
       { slot := none, record := upper, changed := true }]
  else [w]

/-- The slot a cut reads (R41): that of a record of the store it shrinks or splits, once; a record that a piece has shrunk and a
later piece of the write makes vanish has been read all the same (log entry 40). -/
def WorkRec.cutReads (n : Record) (w : WorkRec) : List Nat :=
  if w.changed then []
  else
    match w.slot with
    | none => []
    | some i => if w.record.meets n && !(w.cut n).isEmpty then [i] else []

/-- Whether a segment ends with a marker record (R21). -/
def endsInMarker (seg : List WorkRec) : Bool :=
  match seg.getLast? with
  | some w => w.record.kind = .marker
  | none => false

/-- The segments after the merges of R36: a closed segment without its marker goes in front of the segment after it, oldest
first; `carry` are the records carried on. -/
def mergeForward (carry : List WorkRec) : List (List WorkRec) → List WorkRec → List (List WorkRec) × List WorkRec
  | [], op => ([], carry ++ op)
  | seg :: segs, op =>
    if endsInMarker seg then
      let r := mergeForward [] segs op
      ((carry ++ seg) :: r.1, r.2)
    else mergeForward (carry ++ seg) segs op

/-- Enters one piece into the working copy (R34–R37).  The records it shrinks or splits are read in journal order (log entry
34). -/
def Work.enter (w : Work) (n : Record) : Work :=
  let reads := ((w.closed.flatten ++ w.opened).map (WorkRec.cutReads n)).flatten
  let cut := fun seg : List WorkRec => (seg.map (WorkRec.cut n)).flatten
  let m := mergeForward [] (w.closed.map cut) (cut w.opened)
  let new : WorkRec := { slot := none, record := n, changed := true }
  match n.kind with
  | .plain => { closed := m.1, opened := m.2 ++ [new], reads := w.reads ++ reads }
  | .marker => { closed := m.1 ++ [m.2 ++ [new]], opened := [], reads := w.reads ++ reads }

/-- Enters the pieces one by one (R33, R38). -/
def Work.enterAll (w : Work) (ns : List Record) : Work := ns.foldl Work.enter w

/-- The record of a slot in the working copy. -/
def workRec (m : SlotMem) (i : Nat) : WorkRec := { slot := some i, record := (SlotMem.read m i).record, changed := false }

/-- The working copy of a journal before the capture (R38). -/
def CageRecord.work (j : CageRecord) (m : SlotMem) : Work :=
  { closed := j.closed.map fun seg => seg.map (workRec m), opened := j.opened.map (workRec m), reads := [] }

/-- The records of the working copy in journal order. -/
def Work.records (w : Work) : List WorkRec := w.closed.flatten ++ w.opened

/-- The record count of the working copy. -/
def Work.count (w : Work) : Nat := w.records.length

/-! ## Bounds and commit (R38, R39) -/

/-- The first bound a working copy exceeds (R38): quota, pool, segments, in that order. -/
def Work.spill? (w : Work) (quota before free : Nat) : Option SpillCause :=
  if quota < w.count then some .quota
  else if before + free < w.count then some .pool
  else if 16 < w.closed.length + 1 then some .segments
  else none

/-- A slot's contents as a record is written with correct check bits, but for the mask given (R195). -/
def Slot.of (r : Record) (mask : Option Byte) : Slot := { used := true, record := r, syndrome := mask.getD 0 }

/-- Whether a record of the working copy is rewritten in place (R39). -/
def WorkRec.rewritten (w : WorkRec) : Bool := w.changed && w.slot.isSome

/-- The rewrites in place of a commit, in journal order, the mask on the first record written (R39, R191, R195): the memory
and the mask still pending. -/
def rewrite (m : SlotMem) (mask : Option Byte) : List WorkRec → SlotMem × Option Byte
  | [] => (m, mask)
  | w :: ws =>
    match w.slot with
    | some i => if w.changed then rewrite (SlotMem.write m i (Slot.of w.record mask)) none ws else rewrite m mask ws
    | none => rewrite m mask ws

/-- The slots of one segment's records: a new record takes the lowest free slot, in journal order, and is written there
(R39); the result is the memory, the mask still pending and the segment's slots. -/
def place (m : SlotMem) (mask : Option Byte) : List WorkRec → SlotMem × Option Byte × List Nat
  | [] => (m, mask, [])
  | w :: ws =>
    match w.slot with
    | some i =>
      let r := place m mask ws
      (r.1, r.2.1, i :: r.2.2)
    | none =>
      let i := SlotMem.lowestFree m
      let r := place (SlotMem.write m i (Slot.of w.record mask)) none ws
      (r.1, r.2.1, i :: r.2.2)

/-- The slots of several segments' records, in journal order. -/
def placeAll (m : SlotMem) (mask : Option Byte) : List (List WorkRec) → SlotMem × Option Byte × List (List Nat)
  | [] => (m, mask, [])
  | seg :: segs =>
    let r := place m mask seg
    let rs := placeAll r.1 r.2.1 segs
    (rs.1, rs.2.1, r.2.2 :: rs.2.2)

/-- The slots of records that left the journal (R39). -/
def Work.leaving (w : Work) (before : List Nat) : List Nat :=
  before.filter fun i => !(w.records.any fun x => x.slot = some i)

/-- The commit of a capture for cage `k` (R39): leaving slots freed, records rewritten, new records placed, the segment list
replaced; the pending mask goes to the first record written (R195); an absent identity record takes the last probed
identity where the journal then holds a record (R28). -/
def State.commit (s : State) (k : CageId) (w : Work) : State :=
  let j := (s.cage k).journal
  let m0 := (w.leaving j.slots).foldl SlotMem.free s.store.slots
  let r1 := rewrite m0 j.mask w.records
  let r2 := placeAll r1.1 r1.2 w.closed
  let r3 := place r2.1 r2.2.1 w.opened
  let s1 := s.modSlots fun _ => r3.1
  s1.modCage k fun c =>
    { c with journal := { c.journal with
        closed := r2.2.2
        opened := r3.2.2
        mask := r3.2.1
        identity :=
          match c.journal.identity with
          | some i => some i
          | none => if 0 < w.count then c.seq.lastIdentity else none } }

/-- The SPILL notice (R40, R204). -/
def spillFrame (k : CageId) (cause : SpillCause) (count : Nat) : Frame :=
  { kind := .spill, cage := cageByte k, a1 := BitVec.ofNat 8 cause.code, a2 := hiByte count, a3 := loByte count, a4 := 0,
    a5 := 0 }

/-- The refusal of a capture (R40): the journal becomes SPILLED and is otherwise as it was; SPILL is queued, then logged. -/
def State.spill (s : State) (k : CageId) (cause : SpillCause) (count : Nat) : State :=
  ((s.modJournal k fun j => { j with state := .spilled }).submit (spillFrame k cause count)).logFault
    .spill (some k) cause.code count

/-- Reads slots for cage `k` in order until one is uncorrectable (R41); the Bool says whether all were read. -/
def State.readSlots (s : State) (k : CageId) : List Nat → State × Bool
  | [] => (s, true)
  | i :: is =>
    let r := s.readSlot k i
    if r.2 then r.1.readSlots k is else r

/-- A capture (R27–R41): passed over unless the journal is OPEN with a quota above 0, and without effect where the write
yields no pieces (R28); else worked out on a working copy, abandoned at an uncorrectable read (R41), refused where a bound is
exceeded (R40), or committed (R39). -/
def State.capture (s : State) (k : CageId) (sheet offset : Byte) (data : List Byte) : State :=
  let j := (s.cage k).journal
  let pieces := resolve s.profile.rules sheet offset data
  if j.state = .opened ∧ 0 < j.quota ∧ pieces ≠ [] then
    let w := (j.work s.store.slots).enterAll pieces
    let r := s.readSlots k w.reads
    if r.2 then
      match w.spill? j.quota j.count r.1.store.freeCount with
      | some cause => r.1.spill k cause w.count
      | none => r.1.commit k w
    else r.1
  else s

/-- FORGET's effect on the journal (R44): every slot freed unread, one empty open segment, OPEN, no identity record, the
flag clear; the quota and the pending mask stay. -/
def State.emptyJournal (s : State) (k : CageId) : State :=
  let j := (s.cage k).journal
  (s.modSlots fun m => j.slots.foldl SlotMem.free m).modJournal k fun j =>
    { j with state := .opened, closed := [], opened := [], identity := none, incomplete := false }

end Sys2Proof.Machine
end

