-- ==== Sys2Proof/Machine/Timing.lean ====
section
/-! DEFINITION. Timing sets and their adoption, the starts and ends of phase timers, and the pace of attempts and of busy
retries (chapter 4). -/

namespace Sys2Proof.Machine

/-! ## Adoption of a pending timing set (R90) -/

/-- Whether any of the 68 users still has its adoption-due flag set (R90). -/
def State.anyAdoptionDue (s : State) : Bool :=
  s.cages.any (fun c => c.seq.adoptionDue || c.gate.adoptionDue) || s.channels.any fun h => h.adoptionDue

/-- The pending set becomes absent when the last flag is cleared (R90). -/
def State.settlePending (s : State) : State := if s.anyAdoptionDue then s else { s with pendingTiming := none }

/-- The adoption point of the sequencer of cage `k` (R90). -/
def State.adoptSeq (s : State) (k : CageId) : State :=
  match s.pendingTiming with
  | none => s
  | some t =>
    if (s.cage k).seq.adoptionDue then
      (s.modSeq k fun q => { q with active := t, adoptionDue := false }).settlePending
    else s

/-- The adoption point of the gate of cage `k` (R90). -/
def State.adoptGate (s : State) (k : CageId) : State :=
  match s.pendingTiming with
  | none => s
  | some t =>
    if (s.cage k).gate.adoptionDue then
      (s.modGate k fun g => { g with active := t, adoptionDue := false }).settlePending
    else s

/-- The adoption point of channel `c` (R90). -/
def State.adoptChannel (s : State) (c : Fin 4) : State :=
  match s.pendingTiming with
  | none => s
  | some t =>
    if s.channels[c].adoptionDue then
      (s.modChannel c fun h => { h with active := t, adoptionDue := false }).settlePending
    else s

/-- A GOOD RELOAD places the pending set and sets the flag of all 68 users (R91). -/
def State.placePending (s : State) (t : TimingSet) : State :=
  { s with
    cages := s.cages.map fun c =>
      { c with seq := { c.seq with adoptionDue := true }, gate := { c.gate with adoptionDue := true } }
    channels := s.channels.map fun h => { h with adoptionDue := true }
    pendingTiming := some t }

/-! ## The phase timer (R81, R82) -/

/-- The largest elapsed value; the timer stops there (R81). -/
def timerMax : Nat := 32767

/-- Compare A of a phase under a timing set (R82). -/
def Phase.compareA (t : TimingSet) : Phase → Option Nat
  | .settle => none
  | .boot => some t.bootFirst
  | .power => some t.powerFirst
  | .adopt => some t.bootFirst

/-- Compare B of a phase under a timing set (R82). -/
def Phase.compareB (t : TimingSet) : Phase → Nat
  | .settle => t.settle
  | .boot => t.bootLimit
  | .power => t.powerLimit
  | .adopt => t.bootLimit

/-- The timer at the start of a phase. -/
def PhaseTimer.ofPhase (t : TimingSet) (p : Phase) : PhaseTimer :=
  { use := .phase p (p.compareA t) (p.compareB t), elapsed := 0 }

/-- Starts a phase of cage `k` (R82): after the adoption of R90 the compares come from the active set, the timer counts
from 0, and the first attempt, where the phase has one, is due at compare A (R83). -/
def State.startPhase (s : State) (k : CageId) (p : Phase) : State :=
  let s1 := s.adoptSeq k
  s1.modCage k fun c =>
    { c with
      timer := PhaseTimer.ofPhase c.seq.active p
      seq := { c.seq with
        attempt := none
        due := match p with
          | .settle => .none
          | _ => .compareA
        bootCaptured := false
        ret := none
        started := false } }

/-- Starts a WAIT of cage `k` (R87): the phase is over. -/
def State.startWait (s : State) (k : CageId) : State :=
  s.modCage k fun c =>
    { c with timer := { use := .wait, elapsed := 0 },
             seq := { c.seq with attempt := none, due := .none, ret := none, started := false } }

/-- Ends the timer's use: IDLE with the value held (R81), and no attempt or return of the sequencer in hand. -/
def State.idleTimer (s : State) (k : CageId) : State :=
  s.modCage k fun c =>
    { c with timer := { c.timer with use := .idle },
             seq := { c.seq with attempt := none, due := .none, ret := none, started := false } }

/-- Brings the phase timer of cage `k` to the value at which an event named by its command is due: the event says that the
elapsed value has reached it (log entry 3). -/
def State.reach (s : State) (k : CageId) (v : Nat) : State :=
  s.modCage k fun c => { c with timer := { c.timer with elapsed := max c.timer.elapsed v } }

/-- The phase that runs in cage `k`, if one does. -/
def Cage.phase? (c : Cage) : Option Phase :=
  match c.timer.use with
  | .phase p _ _ => some p
  | _ => none

/-- Compare B of the phase that runs. -/
def Cage.compareB (c : Cage) : Nat :=
  match c.timer.use with
  | .phase _ _ b => b
  | _ => 0

/-! ## The busy schedule (R88) -/

/-- Where the schedule of a transaction stands after an attempt that ended BUSY at elapsed value `e`: the next is due one
poll interval later where that is below the write-busy limit, else none is made (R88). -/
def Retry.afterBusy (t : TimingSet) (e : Nat) : Retry :=
  if e + t.poll < t.writeBusy then .due (e + t.poll) else .limit

end Sys2Proof.Machine
end

