-- ==== Sys2Proof/Machine/Power.lean ====
section
/-! DEFINITION. The Power Admission Unit's own operations (chapter 5). -/

namespace Sys2Proof.Machine

/-- The effective draw of a power class (R97): the table entry times the factor over 16, rounded up. -/
def effectiveDraw (draws : Vector Nat 8) (factor : Nat) (cls : Fin 8) : Nat := (draws[cls] * factor + 15) / 16

/-- A join (R98): an entry for the cage with the draw computed now is appended at the tail. -/
def Power.join (p : Power) (k : CageId) (cls : Fin 8) : Power :=
  { p with list := p.list ++ [{ cage := k, cls := cls, draw := effectiveDraw p.draws p.factor cls }] }

/-- A leave without admission (R99): the entry goes from wherever it stands. -/
def Power.leave (p : Power) (k : CageId) : Power := { p with list := p.list.filter fun e => e.cage ≠ k }

/-- A release (R102): the cage's charge leaves the charge set; a cage that is not charged changes nothing. -/
def Power.release (p : Power) (k : CageId) : Power := { p with charges := p.charges.filter fun c => c.cage ≠ k }

/-- The test of R100 for a head with draw `d`: it fits under the limit, or nothing is committed (the admit-alone rule). -/
def Power.passes (p : Power) (d : Nat) : Bool := p.committed + d ≤ p.limit || p.committed = 0

/-- Whether a cage's entry is at the head of the list. -/
def Power.headIs (p : Power) (k : CageId) : Bool :=
  match p.list with
  | [] => false
  | e :: _ => e.cage = k

/-- Whether the head of the list passes the test. -/
def Power.headPasses (p : Power) : Bool :=
  match p.list with
  | [] => false
  | e :: _ => p.passes e.draw

/-- An admission's effect at the unit (R101 steps 1 and 2): the head leaves and is charged with its entry's draw. -/
def Power.charge (p : Power) (e : AdmissionEntry) (rest : List AdmissionEntry) : Power :=
  { p with list := rest, charges := p.charges ++ [{ cage := e.cage, draw := e.draw }] }

/-- Whether a pending budget is to be adopted (R104): the committed draw fits under it, or at most one cage is charged. -/
def Power.adoptionHolds (p : Power) : Bool :=
  match p.pendingBudget with
  | none => false
  | some b => p.committed ≤ b || p.charges.length ≤ 1

/-- The adoption of a pending budget (R104). -/
def Power.adopt (p : Power) : Power :=
  match p.pendingBudget with
  | none => p
  | some b => if p.adoptionHolds then { p with budget := b, pendingBudget := none } else p

/-- Changes the Power Admission Unit alone. -/
def State.modPower (s : State) (f : Power → Power) : State := { s with power := f s.power }

end Sys2Proof.Machine
end

