-- ==== Sys2Proof/Machine/Sequencer.lean ====
section
/-! DEFINITION. The cage sequencer's shared operations: entering a state, leaving the lists, starting a cursor return, and
the attempts of a phase (chapter 3). -/

namespace Sys2Proof.Machine

/-! ## Entering a state -/

/-- The sequencer record at the step into a state: the cage state, the decision where the entry makes it NO (R50), and
the four outputs (R51–R53). -/
def Seq.enter (q : Seq) (policy : PresencePolicy) (mint : Bool) (st : CageState) : Seq :=
  { q with
    state := st
    adoptPending := false
    decision := if st.clearsDecision then false else q.decision
    mrst := mrstFor st q.mrst
    mlpw := mlpwFor st q.mlpw
    ppres := ppresFor policy st
    pint := pintFor st mint }

/-- The step of cage `k` into a state. -/
def State.enter (s : State) (k : CageId) (st : CageState) : State :=
  s.modCage k fun c => { c with seq := c.seq.enter s.profile.policy c.mint st }

/-- The step into SETTLE with its settle phase (R54, R51). -/
def State.toSettle (s : State) (k : CageId) : State := (s.enter k .settle).startPhase k .settle

/-- Whether the stall timer of a gate is in a use that keeps a sequencer's look at CDA waiting (R157). -/
def Gate.stallBusy (g : Gate) : Bool :=
  match g.stallUse with
  | .upstream => true
  | .busFree => true
  | .hold => true
  | _ => false

/-- Whether the gate's own relay waits on the look at CDA, on its bus clear, or on the cage port's answer. -/
def Gate.stretching (g : Gate) : Bool :=
  match g.inHand with
  | some h =>
    match h.stage with
    | .downAddress => true
    | .downOffset => true
    | _ => false
  | none => false

/-- Starts the stuck detection on the stall timer where CDA is seen low, under the active timing set as it stands (R90), else
stops the timer: the cage port is in use for the part's own work (R94, R157). -/
def Gate.lookAtCda (g : Gate) (cdaLow : Bool) : Gate :=
  { g with stallUse := if cdaLow then .stuck else .stopped, stallElapsed := 0,
           checkSet := if cdaLow then g.active else g.checkSet }

/-- Ends the stuck check or bus clear that runs on the stall timer: the timer starts its upstream use where a transaction
that is not stretched is in hand, else it stops (R94, R157). -/
def Gate.endStuck (g : Gate) : Gate :=
  { g with
    clearing := false
    stallUse := if g.stretching then .stopped else if g.inHand.isSome then .upstream else .stopped
    stallElapsed := 0 }

/-- Whether the stuck check or bus clear that runs on the stall timer is made for the sequencer (R157). -/
def Gate.stuckForSeq (g : Gate) : Bool := !g.stretching && (g.stallUse == .stuck || g.clearing)

/-- Stops the sequencer's work on the cage port of cage `k`: attempt, due point, cursor return, and a stuck check or bus
clear made for it, which is dropped at once (R73 and R161 say so for a removal, R72 for BUS-STUCK; for compare B and RESEAT,
of which R85 and R183 name only a transaction in progress, it is the model's choice, log entry 35).  `carried` is what is
carried to its end. -/
def State.stopSeqWork (s : State) (k : CageId) (carried : Option Trans) : State :=
  s.modCage k fun c =>
    { c with
      seq := { c.seq with attempt := none, due := .none, ret := none, started := false, carried := carried }
      gate := if c.gate.stuckForSeq then c.gate.endStuck else c.gate }

/-- A sequencer transaction that waited for the stall timer's other use is looked at and started (R157). -/
def State.resumeSeq (s : State) (k : CageId) : State :=
  s.modCage k fun c =>
    if c.gate.stallBusy then c
    else if c.seq.attempt.isSome || c.seq.ret.isSome then { c with seq := { c.seq with started := true } } else c

/-! ## The admission list and the charges (R98–R104) -/

/-- The step into POWERUP at admission (R65): MLPW released and the power phase started. -/
def State.toPowerup (s : State) (k : CageId) : State := (s.enter k .powerup).startPhase k .power

/-- Admits heads of the list while they pass (R101): each leaves the list, is charged, and its cage enters POWERUP. -/
def State.admitHeads (s : State) : List AdmissionEntry → State
  | [] => s
  | e :: rest =>
    if s.power.passes e.draw then ((s.modPower fun p => p.charge e rest).toPowerup e.cage).admitHeads rest else s

/-- The unit checks the head of its list, and every head that follows an admitted one (R100, R101). -/
def State.checkHead (s : State) : State := s.admitHeads s.power.list

/-- What the unit does after a release, and after a RELOAD has placed a pending budget: the adoption test, then the check of
the head (R102, R103, R104). -/
def State.unitTests (s : State) : State := (s.modPower Power.adopt).checkHead

/-- A cage leaves the admission list without admission (R99): where it was the head, the new head is checked at once. -/
def State.leaveList (s : State) (k : CageId) : State :=
  let s1 := s.modPower fun p => p.leave k
  if s.power.headIs k then s1.checkHead else s1

/-- A cage's exit from POWERUP is reported (R102): its draw is released, then the unit makes its two tests. -/
def State.releaseDraw (s : State) (k : CageId) : State := (s.modPower fun p => p.release k).unitTests

/-! ## Lists and entries -/

/-- A join (R98): the cage's entry is appended to the list; where that was empty, the cage is the head and is checked at
once (R101). -/
def State.joinList (s : State) (k : CageId) : State :=
  let s1 := s.modPower fun p => p.join k (s.cage k).seq.powerClass
  if s.power.list.isEmpty then s1.checkHead else s1

/-- The step into QUEUED (R65): the cage's WAIT starts (R87) and it joins the admission list. -/
def State.toQueued (s : State) (k : CageId) : State := ((s.enter k .queued).startWait k).joinList k

/-- The step into STAGED (R68): the cage joins the tail of the staged list and its WAIT starts (R87). -/
def State.toStaged (s : State) (k : CageId) : State :=
  let s1 := (s.enter k .staged).startWait k
  { s1 with staged := s1.staged ++ [k] }

/-- The cage leaves the staged list without a grant (R110). -/
def State.leaveStaged (s : State) (k : CageId) : State := { s with staged := s.staged.filter fun j => j ≠ k }

/-- The identity record at an entry into LIVE (R45). -/
def liveIdentity (outcome : IdOutcome) (record last : Option (List Byte)) : Option (List Byte) :=
  match outcome with
  | .same =>
    match record with
    | some i => some i
    | none => last
  | _ => last

/-- The step into LIVE (R70): decision NO, the restore-incomplete flag cleared (R47), the identity record replaced as R45
lays down, PPRES_n and PINT_n shown. -/
def State.toLive (s : State) (k : CageId) : State :=
  (s.enter k .live).modCage k fun c =>
    { c with journal := { c.journal with
        incomplete := false
        identity := liveIdentity c.seq.outcome c.journal.identity c.seq.lastIdentity } }

/-- A time in units of 10 ms, in 12 bits (R204, LIVE). -/
def tenMs (t : Nat) : Nat := t / 10 % 4096

/-- The LIVE notice of cage `k` (R204, R70, R132). -/
def State.liveFrame (s : State) (k : CageId) (restored : Bool) (retries replayed : Nat) : Frame :=
  let q := (s.cage k).seq
  let times := tenMs q.bootTime * 4096 + tenMs q.powerTime
  { kind := .live, cage := cageByte k
    a1 := BitVec.ofNat 8 ((if restored then 128 else 0) + retries % 128)
    a2 := BitVec.ofNat 8 replayed
    a3 := BitVec.ofNat 8 (times / 65536)
    a4 := BitVec.ofNat 8 (times / 256)
    a5 := BitVec.ofNat 8 times }

/-- The HELD notice of cage `k` (R64, R204). -/
def State.heldFrame (s : State) (k : CageId) : Frame :=
  let c := s.cage k
  { kind := .held, cage := cageByte k
    a1 := BitVec.ofNat 8 c.seq.outcome.code
    a2 := BitVec.ofNat 8 c.journal.state.code
    a3 := BitVec.ofNat 8 c.journal.count
    a4 := if s.profile.compatible then 1 else 0
    a5 := 0 }

/-- The REMOVED notice (R73, R204). -/
def removedFrame (k : CageId) (left : CageState) : Frame :=
  { kind := .removed, cage := cageByte k, a1 := BitVec.ofNat 8 left.code, a2 := 0, a3 := 0, a4 := 0, a5 := 0 }

/-- The PRESENT notice (R55, R204). -/
def presentFrame (k : CageId) (reseats : BitVec 16) : Frame :=
  { kind := .present, cage := cageByte k, a1 := hiByte reseats.toNat, a2 := loByte reseats.toNat, a3 := 0, a4 := 0, a5 := 0 }

/-! ## Cursor returns of the sequencer (R16, R17, R63) -/

/-- The phase timer at the first attempt of a transaction of a cursor return (R81, R88). -/
def PhaseTimer.ofReturn : PhaseTimer := { use := .ret, elapsed := 0 }

/-- Starts a cursor return of the sequencer toward a state (R63): it adopts a pending set (R90), takes the controller
cursor as it stands (R16), and the phase timer starts its RETURN at the first attempt (R81).  Where a transaction is still
carried to its end, the first attempt follows that end, and the timer is IDLE until then (log entry 10). -/
def State.startReturn (s : State) (k : CageId) (target : ReturnTarget) : State :=
  (s.adoptSeq k).modCage k fun c =>
    { c with
      timer := if c.seq.carried.isSome then { c.timer with use := .idle } else PhaseTimer.ofReturn
      seq := { c.seq with
        attempt := none
        due := .none
        ret := some { target := target, goal := c.gate.ctrl, retry := .inHand }
        started := !c.gate.stallBusy } }

/-- The module cursor after a cursor return that ended SKIPPED or FAILED (R17): what the part did not establish equal to
the controller cursor is UNKNOWN.  The pointer is established by step 2 alone, which was not TAKEN. -/
def ModCursor.unestablished (m : ModCursor) (c : Cursor) : ModCursor :=
  { sheet := if m.sheet = some c.sheet then m.sheet else none, pointer := none }

/-! ## Attempts (R56–R60, R79, R84) -/

/-- The read of a probe's poll (R56). -/
def Probe.read (p : Probe) : AttemptRead :=
  { area := p.area, position := p.position, length := 1, purpose := .poll p.mask p.expected }

/-- The read of an identity field (R60). -/
def IdField.read (f : IdField) : AttemptRead :=
  { area := f.area, position := f.start, length := f.length, purpose := .field }

/-- The reads of an attempt by cage state, in order: the probe step of PROBE (R58), the poll of POWERUP (R66), the ADOPT
step (R79). -/
def attemptReads (p : Profile) : CageState → List AttemptRead
  | .probe =>
    p.probeL.read :: p.fields.map IdField.read
      ++ [{ area := .base, position := p.classPos, length := 1, purpose := .cls }]
  | .powerup => [p.probeH.read]
  | .adopt => p.probeH.read :: p.fields.map IdField.read
  | _ => []

/-- What the sequencer has captured (R86). -/
def Seq.captures (q : Seq) : Captures :=
  { bootTime := q.bootTime, powerTime := q.powerTime, bootCaptured := q.bootCaptured }

/-- The poll of an attempt that began at this value has matched or not (R57, R79, R86): in PROBE the first match of the phase
captures the boot time, in ADOPT a match captures the power time.  (In POWERUP a match ends the phase, R66.) -/
def Seq.capture (q : Seq) (matched : Bool) (began : Nat) : Seq :=
  let first := matched && !q.bootCaptured && decide (q.state = .probe)
  { q with
    bootTime := if first then began else q.bootTime
    bootCaptured := q.bootCaptured || first
    powerTime := if matched && decide (q.state = .adopt) then began else q.powerTime }

/-- Compare B discards what the attempt in hand has captured (R85, R86). -/
def Seq.uncapture (q : Seq) : Seq :=
  let kept := match q.attempt with
    | some a => a.kept
    | none => q.captures
  { q with bootTime := kept.bootTime, powerTime := kept.powerTime, bootCaptured := kept.bootCaptured }

/-- Begins an attempt of cage `k` at the timer's present value (R84). -/
def State.beginAttempt (s : State) (k : CageId) : State :=
  s.modCage k fun c =>
    { c with seq := { c.seq with
        due := .none
        attempt := some { began := c.timer.elapsed, todo := attemptReads s.profile c.seq.state, identity := [],
                          classByte := 0, matched := false, pointed := false, kept := c.seq.captures }
        started := !c.gate.stallBusy } }

/-- Whether a poll's byte matches (R56): with the bits outside the mask cleared it equals the expected value. -/
def pollMatches (mask expected b : Byte) : Bool := b &&& mask = expected

/-- How the given answers leave an attempt. -/
inductive AttemptEnd where
  /-- A transaction of it is unanswered. -/
  | ongoing (a : Attempt)
  /-- The look at CDA before its next transaction sees the line low. -/
  | held (a : Attempt)
  /-- It ended "not yet"; the Bool says whether its poll matched. -/
  | notYet (matched : Bool)
  /-- Every read was TAKEN and the poll matched. -/
  | complete (a : Attempt)
  deriving DecidableEq, Repr

/-- Runs the reads of an attempt on the answers of their transactions (R58, R66, R79, R84).  A read whose look at CDA sees the
line low is begun again from its pointer write (log entry 48). -/
def runAttempt (m : ModCursor) (a : Attempt) : List AttemptRead → List Response → ModCursor × AttemptEnd
  | [], _ => (m, .complete { a with todo := [] })
  | x :: xs, rs =>
    let r := x.access.run m a.pointed false rs
    match r.ended with
    | .more pt => (r.modc, .ongoing { a with todo := x :: xs, pointed := pt })
    | .held _ => (r.modc, .held { a with todo := x :: xs, pointed := false })
    | .busy => (r.modc, .notYet a.matched)
    | .refused _ _ => (r.modc, .notYet a.matched)
    | .done bytes =>
      match x.purpose with
      | .poll mask expected =>
        if pollMatches mask expected (bytes.headD 0xFF) then
          runAttempt r.modc { a with matched := true, pointed := false } xs r.rest
        else (r.modc, .notYet false)
      | .field => runAttempt r.modc { a with identity := a.identity ++ bytes, pointed := false } xs r.rest
      | .cls => runAttempt r.modc { a with classByte := bytes.headD 0xFF, pointed := false } xs r.rest

/-- The end the answers make of the attempt in hand of cage `k`, where a transaction of it is started.  While the stall
timer is in another use only the transaction already started is answered (R157). -/
def State.attemptEnd (s : State) (k : CageId) (rs : List Response) : Option (ModCursor × AttemptEnd) :=
  let c := s.cage k
  match c.seq.attempt with
  | none => none
  | some a =>
    if c.seq.started && !c.gate.stuckForSeq then
      some (runAttempt c.gate.modc a a.todo (if c.gate.stallBusy then rs.take 1 else rs))
    else none

/-- The power class of a byte (R58): masked, shifted right, reduced to its low three bits. -/
def powerClassOf (p : Profile) (b : Byte) : Fin 8 := Fin.ofNat 8 ((b &&& p.classMask).toNat / 2 ^ p.classShift)

/-- Whether the bytes of a field are equal in two identities laid end to end (R60, R61). -/
def fieldsEqual (sel : Bool → Bool) : List IdField → List Byte → List Byte → Bool
  | [], _, _ => true
  | f :: fs, x, y =>
    (!sel f.serial || x.take f.length == y.take f.length) && fieldsEqual sel fs (x.drop f.length) (y.drop f.length)

/-- The outcome of the comparison of R61. -/
def compareIdentity (fields : List IdField) (record : Option (List Byte)) (probed : List Byte) : IdOutcome :=
  match record with
  | none => .none
  | some i =>
    if fieldsEqual (fun _ => true) fields probed i then .same
    else if fieldsEqual (fun serial => !serial) fields probed i then .compatible
    else .foreign

/-- The next state and the restore decision at the end of a probe step (R62): `true` first for QUEUED, `false` for HELD. -/
def restoreDecision (outcome : IdOutcome) (st : JournalState) (count : Nat) (policy : Bool) : Bool × Bool :=
  match outcome with
  | .none => (true, false)
  | .same => if st.usable then (true, decide (0 < count)) else (false, false)
  | .compatible =>
    if st.usable then
      if 0 < count then if policy then (true, true) else (false, false)
      else (true, false)
    else (false, false)
  | .foreign => (false, false)

end Sys2Proof.Machine
end

