-- ==== Sys2Proof/Machine/Report.lean ====
section
/-! DEFINITION. The frames of REPORT and LOG (R206, R207). -/

namespace Sys2Proof.Machine

/-- The place of the first element that satisfies `p`, counted from the head as 0; 0xFF where none does. -/
def placeOf {α : Type} (p : α → Bool) (xs : List α) : Byte :=
  match xs.findIdx? p with
  | some i => BitVec.ofNat 8 i
  | none => 0xFF

/-- A frame of a cage or of the part from five argument bytes. -/
def frameOf (kind : NoticeKind) (cage : Byte) (a1 a2 a3 a4 a5 : Byte) : Frame :=
  { kind := kind, cage := cage, a1 := a1, a2 := a2, a3 := a3, a4 := a4, a5 := a5 }

/-- REPORT-1 (R206). -/
def State.report1 (s : State) (k : CageId) : Frame :=
  let c := s.cage k
  let q := c.seq
  frameOf .report1 (cageByte k)
    (BitVec.ofNat 8 (q.state.code * 16 + q.outcome.code * 4 + c.journal.state.code))
    (packBits [q.mrst, q.mlpw, q.ppres, q.pint, q.decision, c.journal.incomplete, q.adoptionDue, c.gate.adoptionDue])
    (BitVec.ofNat 8 (q.powerClass.val * 32 + c.timer.use.code * 8 + c.journal.identity.isSome.toNat * 4
      + c.buffers.slot.code))
    (BitVec.ofNat 8 c.journal.count)
    (BitVec.ofNat 8 c.journal.quota)

/-- REPORT-2 (R206). -/
def State.report2 (s : State) (k : CageId) : Frame :=
  let c := s.cage k
  frameOf .report2 (cageByte k) (hiByte c.timer.elapsed) (loByte c.timer.elapsed)
    (BitVec.ofNat 8 (c.journal.closed.length * 16 + c.buffers.queue.length * 2 + c.buffers.closed.toNat))
    (match c.slot with
      | some d => d.code
      | none => 0)
    (c.journal.mask.getD 0)

/-- REPORT-3 (R206): the context by cage state. -/
def State.report3 (s : State) (k : CageId) : Frame :=
  let p := s.power
  let frame := fun (a1 : Byte) (mid low : Nat) =>
    frameOf .report3 (cageByte k) a1 (hiByte mid) (loByte mid) (hiByte low) (loByte low)
  match s.stateOf k with
  | .queued =>
    frame (placeOf (fun e : AdmissionEntry => e.cage = k) p.list)
      (match p.list.find? fun e => e.cage = k with
        | some e => e.draw
        | none => 0)
      p.committed
  | .powerup =>
    match p.charges.find? fun e => e.cage = k with
    | some e => frame 0xFE e.draw p.committed
    | none => frame 0xFF 0 p.committed
  | .staged => frame (placeOf (fun j : CageId => j = k) s.staged) p.budget p.committed
  | .restore =>
    match s.channelOf k with
    | some (c, x) =>
      frameOf .report3 (cageByte k)
        (BitVec.ofNat 8 (c.val * 64 + x.stage.code * 8 + (if x.pass = .verify then 4 else 0) + x.retriesUsed % 4))
        (BitVec.ofNat 8 (x.segIndex * 16)) (BitVec.ofNat 8 x.recIndex) (BitVec.ofNat 8 x.totalRetries)
        (BitVec.ofNat 8 x.replayed)
    | none => frame 0xFF p.budget p.committed
  | _ => frame 0xFF p.budget p.committed

/-- REPORT-4 (R206): the low bytes of five counters. -/
def State.report4 (s : State) (k : CageId) : Frame :=
  let n := (s.cage k).seq.counters
  frameOf .report4 (cageByte k) (loByte n.reseats.toNat) (loByte n.bounces.toNat) (loByte n.restoresCompleted.toNat)
    (loByte n.restoreFailures.toNat) (loByte n.busyRefusals.toNat)

/-- REPORT-5 (R206): the low bytes of three counters and the pool's free count. -/
def State.report5 (s : State) (k : CageId) : Frame :=
  let n := (s.cage k).seq.counters
  frameOf .report5 (cageByte k) (loByte n.readDiscards.toNat) (loByte n.busClears.toNat)
    (loByte n.directiveLosses.toNat) (hiByte s.store.freeCount) (loByte s.store.freeCount)

/-- The five REPORT frames, of one moment (R188, R206). -/
def State.reportFrames (s : State) (k : CageId) : List Frame :=
  [s.report1 k, s.report2 k, s.report3 k, s.report4 k, s.report5 k]

/-- The 32-bit value of LOG-1's A2 to A5 (R207). -/
def FaultEntry.packed (e : FaultEntry) : Nat :=
  (match e.cage with
    | some k => k.val
    | none => 63) * 2 ^ 26 + e.detail1.toNat % 2 ^ 11 * 2 ^ 15 + e.detail2.toNat % 2 ^ 15

/-- A part-wide frame whose last four arguments are a 32-bit value, high byte first. -/
def frame32 (kind : NoticeKind) (a1 : Byte) (v : Nat) : Frame :=
  frameOf kind partByte a1 (BitVec.ofNat 8 (v / 2 ^ 24)) (BitVec.ofNat 8 (v / 2 ^ 16)) (BitVec.ofNat 8 (v / 2 ^ 8))
    (BitVec.ofNat 8 v)

/-- LOG-1 (R207). -/
def FaultLog.log1 (l : FaultLog) : Frame :=
  match l.first with
  | none => frame32 .log1 0 0
  | some e => frame32 .log1 (BitVec.ofNat 8 (e.kind.code * 16 + stateCode e.state)) e.packed

/-- LOG-2 (R207). -/
def FaultLog.log2 (l : FaultLog) : Frame :=
  let v := l.later.toNat * 2 ^ 14 + l.uptime.toNat / 2 ^ 18
  frameOf .log2 partByte (BitVec.ofNat 8 (v / 2 ^ 16)) (BitVec.ofNat 8 (v / 2 ^ 8)) (BitVec.ofNat 8 v)
    (BitVec.ofNat 8 l.laterCount) (BitVec.ofNat 8 (min l.corrected 255))

/-- LOG-3 (R207). -/
def FaultLog.log3 (l : FaultLog) : Frame :=
  match l.first with
  | none => frameOf .log3 partByte 0 0 0 0 0
  | some e =>
    let v := e.uptime.toNat
    frameOf .log3 partByte (BitVec.ofNat 8 (v / 2 ^ 24)) (BitVec.ofNat 8 (v / 2 ^ 16)) (BitVec.ofNat 8 (v / 2 ^ 8))
      (BitVec.ofNat 8 v) 0

/-- The three LOG frames (R189, R207). -/
def FaultLog.frames (l : FaultLog) : List Frame := [l.log1, l.log2, l.log3]

end Sys2Proof.Machine
end

