-- ==== Sys2Proof/Machine/Directives.lean ====
section
/-! DEFINITION. The Directive Decoder: what each directive does where it acts outside RESTORE, and how one arrives
(chapter 9). -/

namespace Sys2Proof.Machine

/-! ## Refusals -/

/-- The DIRECTIVE-REFUSED notice (R182, R204). -/
def refusedFrame (k : CageId) (d : Directive) (st : CageState) (reason : RefuseReason) : Frame :=
  { kind := .directiveRefused, cage := cageByte k, a1 := d.code, a2 := d.arg.getD 0, a3 := BitVec.ofNat 8 st.code,
    a4 := reason.byte, a5 := 0 }

/-- Refuses a directive: it changes no state but the notice queue (R182). -/
def State.refuse (s : State) (k : CageId) (d : Directive) (reason : RefuseReason) : State :=
  s.submit (refusedFrame k d (s.stateOf k) reason)

/-- Empties the directive slot of cage `k` without carrying its directive out, which a DIRECTIVE-REFUSED notice names with
reason DISCARDED (R178, R181). -/
def State.discardSlot (s : State) (k : CageId) : State :=
  match (s.cage k).slot with
  | none => s
  | some d => (s.setSlot k none).refuse k d .discarded

/-- The DIRECTIVE-LOST notice (R180, R204). -/
def lostFrame (k : CageId) (replaced placed : Directive) : Frame :=
  { kind := .directiveLost, cage := cageByte k, a1 := replaced.code, a2 := placed.code, a3 := 0, a4 := 0, a5 := 0 }

/-- Places a directive in the slot of cage `k`; a directive already there is replaced, counted and reported (R180). -/
def State.placeDirective (s : State) (k : CageId) (d : Directive) : State :=
  match (s.cage k).slot with
  | none => s.setSlot k (some d)
  | some old =>
    ((s.setSlot k (some d)).count k fun n => { n with directiveLosses := n.directiveLosses + 1 }).submit
      (lostFrame k old d)

/-! ## RESEAT (R183) -/

/-- The transaction that the attempt or cursor return in hand of a cage's sequencer has started and that is unanswered, if
any. -/
def Cage.ownTrans? (c : Cage) : Option Trans :=
  if c.seq.started && !c.gate.stuckForSeq then
    match c.seq.attempt, c.seq.ret with
    | some a, _ =>
      match a.todo with
      | x :: _ => some (x.access.next c.gate.modc a.pointed)
      | [] => none
    | none, some r =>
      match r.retry with
      | .inHand => some ((Access.ret r.goal).next c.gate.modc false)
      | _ => none
    | none, none => none
  else none

/-- The transaction the sequencer of a cage has in progress on the cage port, if any: one that is carried to its end before
any other is begun (R85, R183), else that of the work in hand. -/
def Cage.seqTrans? (c : Cage) : Option Trans := c.seq.carried.or c.ownTrans?

/-- The list and charge effects of leaving a state by RESEAT, removal or BUS-STUCK: off the admission list (R99), the draw
released (R102), off the staged list (R110). -/
def State.leaveLists (s : State) (k : CageId) : State :=
  match s.stateOf k with
  | .queued => s.leaveList k
  | .powerup => s.releaseDraw k
  | .staged => s.leaveStaged k
  | _ => s

/-- RESEAT outside RESTORE and EMPTY (R183): the lists are left, the attempt or cursor return stops with the transaction in
progress carried to its end, and the cage enters SETTLE.  That a boot time (PROBE) or a power time (ADOPT) which the stopped
attempt has captured stands is the model's choice (log entry 45): R183 discards the attempt's results, and R86 names compare B
alone as discarding a captured time (`Seq.uncapture`). -/
def State.reseatNow (s : State) (k : CageId) : State :=
  ((s.leaveLists k).stopSeqWork k (s.cage k).seqTrans?).toSettle k

/-! ## Directives that act by cage state (R183–R187) -/

/-- RESEAT where it acts on arrival (R183). -/
def State.actReseat (s : State) (k : CageId) (d : Directive) : State :=
  match s.stateOf k with
  | .empty => s.refuse k d .state
  | _ => s.reseatNow k

/-- RESUME where it acts on arrival (R184). -/
def State.actResume (s : State) (k : CageId) (d : Directive) : State :=
  match s.stateOf k with
  | .held =>
    let j := (s.cage k).journal
    if j.state.usable then
      let yes := decide (0 < j.count)
      ((s.modCage k fun c =>
        { c with seq := { c.seq with decision := yes },
                 journal := { c.journal with incomplete := c.journal.incomplete || yes } })).toQueued k
    else s.refuse k d .journal
  | _ => s.refuse k d .state

/-- Makes the restore decision NO. -/
def State.decideNo (s : State) (k : CageId) : State := s.modSeq k fun q => { q with decision := false }

/-- FORGET where it acts on arrival (R185): the journal is emptied first, then the cage is acted on by its state. -/
def State.actForget (s : State) (k : CageId) : State :=
  let s1 := s.emptyJournal k
  match s.stateOf k with
  | .held => (s1.decideNo k).toQueued k
  | .queued => s1.decideNo k
  | .powerup => s1.decideNo k
  | .staged => ((s1.leaveStaged k).decideNo k).startReturn k .live
  | .faulted => s1.reseatNow k
  | _ => s1

/-- RESTORE-NOW where it acts on arrival (R186). -/
def State.actRestoreNow (s : State) (k : CageId) (d : Directive) : State :=
  match s.stateOf k with
  | .live =>
    let j := (s.cage k).journal
    if j.state.usable ∧ 0 < j.count then
      (s.modCage k fun c =>
        { c with seq := { c.seq with decision := true }, journal := { c.journal with incomplete := true } }).toStaged k
    else s.refuse k d .journal
  | _ => s.refuse k d .state

/-- FREEZE (R42, R187). -/
def State.actFreeze (s : State) (k : CageId) (d : Directive) : State :=
  match (s.cage k).journal.state with
  | .opened => s.modJournal k fun j => { j with state := .frozen }
  | .frozen => s
  | _ => s.refuse k d .journal

/-- THAW (R43, R187). -/
def State.actThaw (s : State) (k : CageId) (d : Directive) : State :=
  match (s.cage k).journal.state with
  | .frozen => s.modJournal k fun j => { j with state := .opened }
  | .opened => s
  | _ => s.refuse k d .journal

/-- The pending mask an INJECT leaves: an argument of 0x00 makes it absent (R187). -/
def injectedMask (m : Byte) : Option Byte := if m = 0 then none else some m

/-- INJECT with an argument R176 takes (R187, R195). -/
def State.actInject (s : State) (k : CageId) (d : Directive) : State :=
  match d.arg with
  | some m => s.modJournal k fun j => { j with mask := injectedMask m }
  | none => s

/-- REPORT (R188). -/
def State.actReport (s : State) (k : CageId) : State := s.submitAll (s.reportFrames k)

/-- LOG (R189). -/
def State.actLog (s : State) : State := s.submitAll s.log.frames

/-- CLEARLOG (R199). -/
def State.actClearLog (s : State) : State :=
  s.setLog { s.log with first := none, later := 0, laterCount := 0, corrected := 0 }

/-- Starts a load (R201): CS_n is asserted, and the read command byte and the address are sent. -/
def Loader.begin (l : Loader) (t : Trigger) : Loader := { l with load := some t, flash := FlashPort.begun }

/-- RELOAD (R189): starts a load, or is refused with BUSY while one is in progress.  That the frame then shows the state of
the cage whose port carried it is the model's choice (log entry 39). -/
def State.actReload (s : State) (k : CageId) (d : Directive) : State :=
  match s.loader.load with
  | none => { s with loader := s.loader.begin .reload }
  | some _ => s.refuse k d .busy

/-! ## The code table (R176) -/

/-- The directives of the code table (R176). -/
inductive Code where
  | reseat
  | resume
  | forget
  | restoreNow
  | freeze
  | thaw
  | report
  | inject
  | log
  | clearLog
  | reload
  deriving DecidableEq, Repr

/-- The code a directive is looked up by (R176). -/
def Code.byte : Code → Byte
  | .reseat => 0x01
  | .resume => 0x02
  | .forget => 0x03
  | .restoreNow => 0x04
  | .freeze => 0x05
  | .thaw => 0x06
  | .report => 0x07
  | .inject => 0x08
  | .log => 0x09
  | .clearLog => 0x0A
  | .reload => 0x0B

/-- The look-up of a code (R176). -/
def lookupCode (b : Byte) : Option Code :=
  [Code.reseat, .resume, .forget, .restoreNow, .freeze, .thaw, .report, .inject, .log, .clearLog, .reload].find?
    fun c => c.byte = b

/-- Whether INJECT's argument is one R176 takes: present, and not with an odd number of bits, three or more. -/
def injectArgument (arg : Option Byte) : Bool :=
  match arg with
  | none => false
  | some m => bitCount m = 1 || bitCount m % 2 = 0

/-- Whether a directive is part-wide (R176). -/
def Code.partWide : Code → Bool
  | .log => true
  | .clearLog => true
  | .reload => true
  | _ => false

/-- A directive that acts now, in the cage state the decoder finds, outside RESTORE and cursor returns. -/
def State.act (s : State) (k : CageId) (c : Code) (d : Directive) : State :=
  match c with
  | .reseat => s.actReseat k d
  | .resume => s.actResume k d
  | .forget => s.actForget k
  | .restoreNow => s.actRestoreNow k d
  | .freeze => s.actFreeze k d
  | .thaw => s.actThaw k d
  | .report => s.actReport k
  | .inject => s.actInject k d
  | .log => s.actLog
  | .clearLog => s.actClearLog
  | .reload => s.actReload k d

/-- A cage directive the decoder has not refused by R176 (R178): it waits in the slot in RESTORE, and in a sequencer cursor
return unless it is RESEAT, which acts at once and empties the slot. -/
def State.actOrWait (s : State) (k : CageId) (c : Code) (d : Directive) : State :=
  if s.stateOf k = .restore then s.placeDirective k d
  else if (s.cage k).seq.ret.isSome then
    if c = .reseat then (s.discardSlot k).act k c d else s.placeDirective k d
  else s.act k c d

/-- The arrival of a directive at the decoder (R175–R178). -/
def State.arrive (s : State) (k : CageId) (d : Directive) : State :=
  match lookupCode d.code with
  | none => s.refuse k d .code
  | some c =>
    if c = .inject ∧ injectArgument d.arg = false then s.refuse k d .argument
    else if c.partWide then s.act k c d
    else s.actOrWait k c d

/-- The decoder takes the directive out of the slot at the cage's entry into a state, and it acts there as one arriving
(R179). -/
def State.takeSlot (s : State) (k : CageId) : State :=
  match (s.cage k).slot with
  | none => s
  | some d => (s.setSlot k none).arrive k d

/-! ## The end of a sequencer cursor return (R63) -/

/-- The entry of cage `k` into the state its cursor return led to, with the entry's notice and the directive that waited
(R63, R64, R70, R71, R179). -/
def State.enterTarget (s : State) (k : CageId) (t : ReturnTarget) : State :=
  let s1 := s.idleTimer k
  match t with
  | .held =>
    let s2 := s1.enter k .held
    (s2.submit (s2.heldFrame k)).takeSlot k
  | .live =>
    let s2 := s1.toLive k
    (s2.submit (s2.liveFrame k false 0 0)).takeSlot k
  | .faulted => (s1.enter k .faulted).takeSlot k

/-! ## BUS-STUCK outside RESTORE (R72) -/

/-- BUS-STUCK's move of a cage into FAULTED, from every state but EMPTY, SETTLE and RESTORE (R72): phase, attempt and cursor
return end, lists and draw are left, the module cursor is UNKNOWN, MRST_n and MLPW keep their levels; a directive waiting on
a cursor return acts in FAULTED (R179). -/
def State.busStuckMove (s : State) (k : CageId) : State :=
  match s.stateOf k with
  | .empty => s
  | .settle => s
  | .restore => s
  | _ =>
    let s1 := (((s.leaveLists k).stopSeqWork k none).idleTimer k).enter k .faulted
    (s1.modGate k fun g => { g with modc := { sheet := none, pointer := none } }).takeSlot k

end Sys2Proof.Machine
end

