-- ==== Sys2Proof/Machine/Clock.lean ====
section
/-! DEFINITION. One millisecond of the part's own time: every running timer counts (chapter 4, R196). -/

namespace Sys2Proof.Machine

/-- The phase timer one millisecond on (R81): it counts in PHASE, WAIT and RETURN, and stops at 32,767. -/
def PhaseTimer.tick (t : PhaseTimer) : PhaseTimer :=
  match t.use with
  | .idle => t
  | _ => { t with elapsed := min (t.elapsed + 1) timerMax }

/-- The longest limit a stall timer is read against, in ms (R89: upstream stall limit). -/
def stallMax : Nat := 255

/-- The stall timer one millisecond on (R94).  In HUNT it shows how long UCL and UDA have been high without a break (R156),
which BUS_FREE_INTERVAL brings: the levels of those lines are not in State, so a millisecond alone adds nothing there (log
entry 43). -/
def Gate.tick (g : Gate) : Gate :=
  match g.stallUse with
  | .stopped => g
  | .busFree => g
  | _ => { g with stallElapsed := min (g.stallElapsed + 1) stallMax }

/-- A running discard timer one millisecond on (R93). -/
def Discard.tick (d : Discard) : Discard := { d with elapsed := min (d.elapsed + 1) d.limit }

/-- The longest single wait of a delay timer, in ms (R92). -/
def delayMax : Nat := 2550

/-- The delay timer of a channel one millisecond on (R92). -/
def Channel.tick (h : Channel) : Channel :=
  if h.delayRunning then { h with delay := min (h.delay + 1) delayMax } else h

/-- The three timers of a cage one millisecond on. -/
def Cage.tick (c : Cage) : Cage :=
  { c with
    timer := c.timer.tick
    gate := c.gate.tick
    buffers := { c.buffers with discard := c.buffers.discard.map Discard.tick } }

/-- One millisecond (log entry 2): the uptime counts always (R196), the timers unless RESET_n is asserted (R81). -/
def State.tick (s : State) : State :=
  let s1 := { s with log := { s.log with uptime := s.log.uptime + 1 } }
  if s.lineReset then s1
  else { s1 with cages := s1.cages.map Cage.tick, channels := s1.channels.map Channel.tick }

end Sys2Proof.Machine
end

