-- ==== Sys2Proof/Machine/Restore.lean ====
section
/-! DEFINITION. The Restore Engine: replay, verification, boundaries, the deferred writes, the end of a restore by
completion, failure, FORGET, RESEAT and removal (chapters 6 and 8). -/

namespace Sys2Proof.Machine

/-! ## Deferred writes that leave their queue (R27, R168) -/

/-- Hands a deferred entry to the journal (R27): all its data bytes, with the sheet recorded in the entry. -/
def State.captureEntry (s : State) (k : CageId) (e : DeferEntry) : State := s.capture k e.sheet e.offset e.data

/-- Hands entries to the journal in queue order. -/
def State.captureEntries (s : State) (k : CageId) : List DeferEntry → State
  | [] => s
  | e :: es => (s.captureEntry k e).captureEntries k es

/-- Leaves a FILLING entry to the gate alone (R168). -/
def Gate.detach (g : Gate) (e : DeferEntry) : Gate :=
  match g.inHand with
  | some h => if h.place = .queued then { g with inHand := some { h with place := .detached e } } else g
  | none => g

/-- The queue leaves captured and not applied: COMPLETE entries to the journal in queue order, a FILLING entry to the gate,
which hands it over at its write's end (R168). -/
def State.dropQueue (s : State) (k : CageId) : State :=
  let q := (s.cage k).buffers.queue
  let s1 := s.modCage k fun c =>
    { c with
      buffers := { c.buffers with queue := [] }
      gate := match q.find? fun e => e.filling with
        | some e => c.gate.detach e
        | none => c.gate }
  s1.captureEntries k (q.filter fun e => !e.filling)

/-- The buffers at the cage's exit from RESTORE (R163, R172): the queue is empty and OPEN, the slot FREE, the discard timer
stopped. -/
def State.clearBuffers (s : State) (k : CageId) : State := s.modBuffers k fun _ => Buffers.fresh

/-! ## Failure and hand-back (R133, R134) -/

/-- The end of the failure path (R134 steps 3–5): the failure is counted, the channel released, the cage enters FAULTED, and
a directive that waits acts there (R179).  The restore-incomplete flag stays as it is. -/
def State.finishFailure (s : State) (c : Fin 4) (k : CageId) : State :=
  let s1 := s.count k fun n => { n with restoreFailures := n.restoreFailures + 1 }
  ((((s1.releaseChannel c).clearBuffers k).idleTimer k).enter k .faulted).takeSlot k

/-- Makes the module cursor of a cage (UNKNOWN, UNKNOWN) (R72). -/
def State.forgetModule (s : State) (k : CageId) : State :=
  s.modGate k fun g => { g with modc := { sheet := none, pointer := none } }

/-- Closes the deferred write queue to new entries (R163). -/
def State.closeQueue (s : State) (k : CageId) : State := s.modBuffers k fun b => { b with closed := true }

/-- Starts the cursor return of a channel from the controller cursor as it stands (R16, R130); the stage is RETURN, but
stays ENDING on the failure path (R134). -/
def State.startChanReturn (s : State) (c : Fin 4) (x : ChannelCtx) : State :=
  (s.setCtx c { x with
    stage := match x.path with
      | .failed => .ending
      | _ => .ret
    work := .ret (s.cage x.cage).gate.ctrl
    retry := .inHand
    pointed := false
    stuck := .none }).startDelay c

/-- The failure path, once the fault is logged (R134 steps 1 and 2): ENDING, the deferred writes captured and not applied,
the queue closed, and the cursor return begun. -/
def State.failRestore (s : State) (c : Fin 4) (x : ChannelCtx) : State :=
  let x1 := { x with stage := .ending, path := .failed, work := .idle, retry := .inHand, stuck := .none }
  let s1 := ((s.setCtx c x1).dropQueue x.cage).closeQueue x.cage
  s1.startChanReturn c x1

/-- The failure path after BUS-STUCK (R123, R134): as above without a cursor return, the module cursor UNKNOWN.  On the
failure path itself nothing is left to drop; on the FORGET path the entries still queued leave it captured. -/
def State.failStuck (s : State) (c : Fin 4) (x : ChannelCtx) : State :=
  let x1 := { x with stage := .ending, path := .failed, work := .idle, retry := .inHand, stuck := .none }
  let s1 := ((s.setCtx c x1).dropQueue x.cage).closeQueue x.cage
  (s1.forgetModule x.cage).finishFailure c x.cage

/-! ## Completion and the FORGET path (R129–R131, R137) -/

/-- The completion of a restore (R131). -/
def State.finishCompletion (s : State) (c : Fin 4) (x : ChannelCtx) : State :=
  let k := x.cage
  let s1 := s.count k fun n => { n with restoresCompleted := n.restoresCompleted + 1 }
  let s2 := (((s1.releaseChannel c).clearBuffers k).idleTimer k).toLive k
  (s2.submit (s2.liveFrame k true x.totalRetries x.replayed)).takeSlot k

/-- The end of the FORGET path (R137 steps 4–6). -/
def State.finishForget (s : State) (c : Fin 4) (x : ChannelCtx) : State :=
  let k := x.cage
  let s2 := (((s.releaseChannel c).clearBuffers k).idleTimer k).toLive k
  (s2.submit (s2.liveFrame k false x.totalRetries x.replayed)).takeSlot k

/-- What follows the last cursor return of a restore, by the way it ends. -/
def State.finishRestore (s : State) (c : Fin 4) (x : ChannelCtx) : State :=
  match x.path with
  | .completion => s.finishCompletion c x
  | .failed => s.finishFailure c x.cage
  | .forgotten => s.finishForget c x

/-- Whether the gate holds a transaction whose cursor movement the comparison of R173 waits for: DEFER, READ-SLOT, or a
DEFER write refused at its 17th byte that still owes its sheet (R165; log entry 13). -/
def Gate.movesCursor (g : Gate) : Bool :=
  match g.inHand with
  | none => false
  | some h =>
    match h.treatment with
    | .defer => true
    | .readSlot => true
    | .refuse => h.sheetSelect.isSome
    | _ => false

/-- The comparison at the end of a channel's cursor return (R130, R173): a COMPLETE return whose controller cursor has moved
is followed by a further return; one that is not COMPLETE leaves the components of R17 UNKNOWN; else the restore ends. -/
def State.compareReturn (s : State) (c : Fin 4) (x : ChannelCtx) (goal : Cursor) (complete : Bool) : State :=
  let g := (s.cage x.cage).gate
  if g.movesCursor then s.setCtx c { x with work := .awaitCompare goal complete }
  else if complete then
    if g.ctrl = goal then s.finishRestore c x else s.startChanReturn c x
  else (s.modGate x.cage fun g => { g with modc := g.modc.unestablished g.ctrl }).finishRestore c x

/-- DRAIN (R129, R168): the head of the queue is applied, a FILLING head is waited for, and an empty queue is closed and the
cursor return begun. -/
def State.drain (s : State) (c : Fin 4) (x : ChannelCtx) : State :=
  match (s.cage x.cage).buffers.queue with
  | [] => (s.closeQueue x.cage).startChanReturn c x
  | e :: _ =>
    if e.filling then s.setCtx c { x with stage := .drain, work := .awaitFill }
    else
      (s.setCtx c { x with stage := .drain, work := .apply e, retry := .inHand, pointed := false, stuck := .none }).startDelay c

/-- An entry whose application has ended leaves the head of the queue and is handed to the journal (R129). -/
def State.entryApplied (s : State) (c : Fin 4) (x : ChannelCtx) (e : DeferEntry) : State :=
  ((s.modBuffers x.cage fun b => { b with queue := b.queue.drop 1 }).captureEntry x.cage e).drain c x

/-- FORGET taken from the slot at a boundary or the completion point (R137): the journal is emptied and the deferred writes
are applied as in DRAIN. -/
def State.forgetRestore (s : State) (c : Fin 4) (x : ChannelCtx) : State :=
  (s.emptyJournal x.cage).drain c { x with path := .forgotten }

/-- RESEAT taken from the slot (R136): the queue leaves captured, the slot is FREE, the channel is released, and the cage
enters SETTLE. -/
def State.reseatRestore (s : State) (c : Fin 4) (x : ChannelCtx) : State :=
  ((((s.dropQueue x.cage).clearBuffers x.cage).releaseChannel c).idleTimer x.cage).toSettle x.cage

/-- Removal's effect on a restore (R135), after the cage has entered EMPTY: the queue leaves captured and not applied, the
slot is FREE, the waiting directive is discarded, the channel is released. -/
def State.abandonRestore (s : State) (c : Fin 4) (k : CageId) : State :=
  (((s.dropQueue k).clearBuffers k).discardSlot k).releaseChannel c

/-- The directive slot's look at a boundary or the completion point (R124 step 1, R125, R128): the state, and whether the
restore has been ended. -/
def State.boundaryDirective (s : State) (c : Fin 4) (x : ChannelCtx) : State × Bool :=
  match (s.cage x.cage).slot with
  | none => (s, false)
  | some d =>
    let s1 := s.setSlot x.cage none
    match lookupCode d.code with
    | some .reseat => (s1.reseatRestore c x, true)
    | some .forget => (s1.forgetRestore c x, true)
    | some code => (s1.act x.cage code d, false)
    | none => (s1, false)

/-- The completion point (R128): the slot's look, then DRAIN. -/
def State.completionPoint (s : State) (c : Fin 4) (x : ChannelCtx) : State :=
  let r := s.boundaryDirective c x
  if r.2 then r.1 else r.1.drain c x

/-! ## Replay (R113–R122) -/

/-- The slots of segment `i` of a journal, counted from the oldest as 0 (R109). -/
def CageRecord.segment (j : CageRecord) (i : Nat) : List Nat := (j.segments[i]?).getD []

/-- The first segment from index `i` on that holds a record (R113, R124). -/
def CageRecord.nextSegment (j : CageRecord) (i : Nat) : Option Nat :=
  (List.range j.segments.length).find? fun n => i ≤ n && !(j.segment n).isEmpty

/-- Starts the write of the record at the context's record index (R114): the record is read from the store with its check;
an uncorrectable one fails the restore (R122). -/
def State.startWrite (s : State) (c : Fin 4) (x : ChannelCtx) : State :=
  match ((s.cage x.cage).journal.segment x.segIndex)[x.recIndex]? with
  | none => s.setCtx c { x with work := .idle }
  | some i =>
    let r := s.readSlot x.cage i
    if r.2 then
      (r.1.setCtx c { x with stage := .replay, pass := .write, work := .write (s.recordIn i), retry := .inHand,
                             pointed := false, stuck := .none }).startDelay c
    else r.1.failRestore c x

/-- Begins the next segment with records from index `i` on, or goes to the completion point where none remains (R113,
R124). -/
def State.startSegment (s : State) (c : Fin 4) (x : ChannelCtx) (i : Nat) : State :=
  match (s.cage x.cage).journal.nextSegment i with
  | some n => s.startWrite c { x with stage := .replay, segIndex := n, recIndex := 0, retriesUsed := 0, pass := .write }
  | none => s.completionPoint c x

/-- A boundary (R124): the directive slot, then the delayed read slot's fetch (R126), else the next segment. -/
def State.boundary (s : State) (c : Fin 4) (x : ChannelCtx) : State :=
  let x1 := { x with stage := .boundary, work := .idle }
  let r := (s.setCtx c x1).boundaryDirective c x1
  if r.2 then r.1
  else
    match (r.1.cage x.cage).buffers.slot with
    | .pending loc _ =>
      ((r.1.modBuffers x.cage fun b => { b with slot := .pending loc true }).setCtx c
        { x1 with work := .fetch loc, retry := .inHand, pointed := false, stuck := .none }).startDelay c
    | _ => r.1.startSegment c x1 (x.segIndex + 1)

/-- A segment has verified (R113): its records are counted, and a boundary or the completion point follows. -/
def State.segmentVerified (s : State) (c : Fin 4) (x : ChannelCtx) : State :=
  let j := (s.cage x.cage).journal
  let x1 := { x with replayed := x.replayed + (j.segment x.segIndex).length, work := .idle }
  match j.nextSegment (x.segIndex + 1) with
  | some _ => s.boundary c x1
  | none => (s.setCtx c x1).completionPoint c x1

/-- Whether a record is read back (R119): PLAIN, and its rule has VERIFY. -/
def verifies (table : List Rule) (r : Record) : Bool :=
  r.kind = .plain && (match table[r.rule]? with
    | some u => u.verify
    | none => false)

/-- Goes on with the verify pass from record index `i` (R119): the next record to be read back is read from the store with
its check, and the segment has verified where none remains.  The record index moves only to a record that is written or read
back, so it stays at the last such record (at the last of the segment where none is read back) until the next segment begins or
the restore ends, with pass VERIFY: the model's choice of what REPORT shows there (log entry 47). -/
def State.startVerify (s : State) (c : Fin 4) (x : ChannelCtx) (i : Nat) : State :=
  let seg := (s.cage x.cage).journal.segment x.segIndex
  match (List.range seg.length).find? fun n => i ≤ n && verifies s.profile.rules (s.recordIn (seg.getD n 0)) with
  | none => s.segmentVerified c { x with pass := .verify }
  | some n =>
    let slot := seg.getD n 0
    let r := s.readSlot x.cage slot
    if r.2 then
      (r.1.setCtx c { x with pass := .verify, recIndex := n, work := .verify (s.recordIn slot), retry := .inHand,
                             pointed := false, stuck := .none }).startDelay c
    else r.1.failRestore c { x with pass := .verify, recIndex := n }

/-- The post-delay of a closed segment's marker, in ms (R118); 0 for the open segment. -/
def State.postDelay (s : State) (j : CageRecord) (i : Nat) : Nat :=
  if i < j.closed.length then
    match (j.segment i).getLast? with
    | some slot =>
      match s.profile.rules[(s.recordIn slot).rule]? with
      | some u => u.postDelay * 10
      | none => 0
    | none => 0
  else 0

/-- The end of a write pass (R118): the wait after the marker, or the verify pass at once. -/
def State.endWritePass (s : State) (c : Fin 4) (x : ChannelCtx) : State :=
  let d := s.postDelay (s.cage x.cage).journal x.segIndex
  if d = 0 then s.startVerify c x 0
  else (s.setCtx c { x with work := .postDelay d, retry := .inHand, stuck := .none }).startDelay c

/-- A record's write is TAKEN (R114): the next record, or the end of the pass. -/
def State.recordWritten (s : State) (c : Fin 4) (x : ChannelCtx) : State :=
  if x.recIndex + 1 < ((s.cage x.cage).journal.segment x.segIndex).length then
    s.startWrite c { x with recIndex := x.recIndex + 1 }
  else s.endWritePass c x

/-- The sheet detail of a position aimed at: 0xFF for BASE, else the sheet (R198). -/
def Area.detail : Area → Nat
  | .base => 255
  | .sheet n => n.toNat

/-- A segment has failed at a byte (R121): it is replayed from its head while retries are left, else the restore fails with
VERIFY, naming the sheet and position of the byte. -/
def State.segmentFailed (s : State) (c : Fin 4) (x : ChannelCtx) (sheet position : Nat) : State :=
  if x.retriesUsed < s.channels[c].active.verifyRetries then
    s.startWrite c { x with retriesUsed := x.retriesUsed + 1, totalRetries := x.totalRetries + 1, recIndex := 0,
                            pass := .write }
  else (s.logFault .verify (some x.cage) sheet position).failRestore c x

/-! ## Answers of the channel's transactions -/

/-- The access of the work in hand of a channel (R114, R119, R126, R129, R130). -/
def ChanWork.access? (fetchLen : Nat) : ChanWork → Option Access
  | .write r => some r.writeAccess
  | .verify r => some r.readAccess
  | .fetch loc => some (.fetch loc fetchLen)
  | .apply e => some e.access
  | .ret goal => some (.ret goal)
  | _ => none

/-- Whether a transaction of the channel is in hand and unanswered. -/
def ChannelCtx.answerable (x : ChannelCtx) : Bool := x.retry == .inHand && x.stuck == .none

/-- The transaction of channel `c` meets CDA low at its look (R123): the one delay timer starts the stuck detection, and a busy
schedule that ran on it is over (log entry 36). -/
def State.chanHeld (s : State) (c : Fin 4) (x : ChannelCtx) (pointed : Bool) : State :=
  (s.setCtx c { x with pointed := pointed, stuck := .waiting }).startDelay c

/-- The transaction of channel `c` is answered BUSY (R116): the schedule of R88 on the delay timer.  `fresh` says that it is
another transaction than the one whose first attempt started the timer. -/
def State.chanBusy (s : State) (c : Fin 4) (x : ChannelCtx) (fresh : Bool) : State :=
  let e := if fresh then 0 else s.channels[c].delay
  let s1 := if fresh then s.startDelay c else s
  s1.setCtx c { x with pointed := false, retry := Retry.afterBusy s.channels[c].active e }

/-- The access goes on with a further transaction, whose first attempt starts the delay timer (R92). -/
def State.chanMore (s : State) (c : Fin 4) (x : ChannelCtx) (pointed fresh : Bool) : State :=
  let s1 := s.setCtx c { x with pointed := pointed }
  if fresh then s1.startDelay c else s1

/-- Runs the access of a channel on the given answers: the module cursor is accounted (R14), and the run handed back. -/
def State.runChannel (s : State) (x : ChannelCtx) (rs : List Response) : Option (State × AccessRun) :=
  match x.work.access? s.profile.fetchLen with
  | none => none
  | some a =>
    let r := a.run (s.cage x.cage).gate.modc x.pointed false rs
    some (s.modGate x.cage fun g => { g with modc := r.modc }, r)

/-- The sheet and position a refused or silent transaction of an access names (R121, R133, R198): a sheet select the wanted
sheet and 125, else the given place. -/
def Trans.details (t : Trans) (area : Area) (position : Nat) : Nat × Nat :=
  match t with
  | .select n => (n.toNat, 125)
  | _ => (area.detail, position)

/-- The area and position a channel's work is aimed at, for the SILENT details (R133). -/
def ChanWork.aim : ChanWork → Area × Nat
  | .write r => (r.area, r.start)
  | .verify r => (r.area, r.start)
  | .fetch loc => (areaOf loc.sheet loc.pointer, loc.pointer.toNat)
  | .apply e => (areaOf e.sheet e.offset, e.offset.toNat)
  | _ => (.base, 0)

/-- The write-busy limit elapses on a channel's transaction (R116): SKIPPED for a cursor return, SILENT for other work, which
fails the restore, or on the FORGET path ends the applying (R137).  There the queue is closed, and a FILLING entry is left to
the gate at once (log entry 37).  A deferred write or a fetch at position 125 is a BASE place (log entry 41). -/
def State.chanLimit (s : State) (c : Fin 4) (x : ChannelCtx) : State :=
  match x.work with
  | .ret goal => s.compareReturn c x goal false
  | w =>
    match w.access? s.profile.fetchLen with
    | none => s
    | some a =>
      let t := a.next (s.cage x.cage).gate.modc false
      let d := t.details w.aim.1 w.aim.2
      let s1 := s.logFault .silent (some x.cage) d.1 d.2
      match x.path with
      | .forgotten => ((s1.dropQueue x.cage).closeQueue x.cage).startChanReturn c x
      | _ => s1.failRestore c x

/-- A verify read ends with these bytes (R120): equal goes on, the first differing byte fails the segment. -/
def State.verifyCompared (s : State) (c : Fin 4) (x : ChannelCtx) (r : Record) (bytes : List Byte) : State :=
  match (List.range r.data.length).find? fun i => bytes[i]? ≠ r.data[i]? with
  | none => s.startVerify c x (x.recIndex + 1)
  | some i => s.segmentFailed c x r.area.detail (r.start + i)

/-! ## The gate's end of a transaction, for a waiting channel (R168, R173) -/

/-- A channel that waits in DRAIN for a FILLING head goes on once that entry has left the queue (R165, R168). -/
def State.resumeDrain (s : State) (k : CageId) : State :=
  match s.channelOf k with
  | none => s
  | some (c, x) =>
    match x.work with
    | .awaitFill => s.drain c x
    | _ => s

/-- A channel that waits for the gate's transaction goes on: DRAIN with its FILLING head (R168), the comparison of a cursor
return (R173). -/
def State.resumeChannel (s : State) (k : CageId) : State :=
  match s.channelOf k with
  | none => s
  | some (c, x) =>
    match x.work with
    | .awaitFill => s.drain c x
    | .awaitCompare goal complete => s.compareReturn c x goal complete
    | _ => s

end Sys2Proof.Machine
end

