-- ==== Sys2Proof/Machine/Gate.lean ====
section
/-! DEFINITION. The Pass-Through Gate: the transaction in hand, the relay and its accounting, the deferred writes and delayed
reads at the upper port, stalls and stuck buses (chapters 7 and 8). -/

namespace Sys2Proof.Machine

/-! ## The transaction in hand -/

/-- A transaction just opened, its reference sheet latched (R140, R141); while a reset load is in progress it stays
unacknowledged to its end (R143). -/
def InHand.opened (sheet : Byte) (loading : Bool) : InHand :=
  { addressByte := none, toModule := false, treatment := if loading then .refuse else .undecided, stage := .address,
    refSheet := sheet, offset := none, data := [], sheetSelect := none, upperBytes := 0, nacked := false,
    place := .closed, served := false }

/-- Whether a transaction in hand is a read, by the direction of its address byte (R140). -/
def InHand.reads (h : InHand) : Bool :=
  match h.addressByte with
  | some b => b.getLsbD 0
  | none => false

/-- The address byte as the controller sends it: the 7-bit address, then the direction (R140). -/
def addressByteOf (addr : BitVec 7) (read : Bool) : Byte := BitVec.ofNat 8 (addr.toNat * 2 + read.toNat)

/-- Counts one data byte completed on the upper port, saturating at 255 (R140). -/
def InHand.counted (h : InHand) : InHand := { h with upperBytes := min (h.upperBytes + 1) 255 }

/-- Restarts the stall timer's upstream use (R94). -/
def Gate.restartStall (g : Gate) : Gate := { g with stallUse := .upstream, stallElapsed := 0 }

/-- Stops the stall timer (R94). -/
def Gate.stopStall (g : Gate) : Gate := { g with stallUse := .stopped, stallElapsed := 0 }

/-- Puts a transaction in hand with the answer given on the upper port; the gate waits for the controller. -/
def Gate.hand (g : Gate) (h : InHand) (a : UpAnswer) : Gate := { (g.restartStall) with inHand := some h, answer := a }

/-- A downstream stop, where a transaction of the gate stands on the cage port (R147, R151). -/
def Gate.downStop (g : Gate) : Gate := { g with port := .free }

/-- Applies a noted sheet select to both cursors at the write's end (R152); it is noted no longer. -/
def Gate.applySelect (g : Gate) : Gate :=
  match g.inHand with
  | none => g
  | some h =>
    match h.sheetSelect with
    | none => g
    | some v =>
      { g with
        ctrl := { g.ctrl with sheet := v }
        modc := { g.modc with sheet := some v }
        inHand := some { h with sheetSelect := none } }

/-- Refuses the rest of the transaction in hand (R140, R141): REFUSE, in HOLDING, with this answer. -/
def Gate.refuseRest (g : Gate) (h : InHand) (a : UpAnswer) : Gate :=
  { (g.hand { h with treatment := .refuse, stage := .data } a) with relay := .holding, port := .free }

/-! ## Decisions (R143–R146, R164, R169) -/

/-- Begins the relay of a transaction (R144, R147, R150): the stuck check, with UCL stretched until the cage port answers. -/
def Gate.startRelay (g : Gate) (h : InHand) (t : Treatment) (cdaLow : Bool) : Gate :=
  { (g.lookAtCda cdaLow) with inHand := some { h with treatment := t, stage := .downAddress } }

/-- The decision of a READ-SLOT read at its address byte (R169): the slot, its discard timer, whether the read is served, and
whether a read discard counts. -/
def Buffers.decideRead (b : Buffers) (loc : Cursor) : Buffers × Bool × Bool :=
  match b.slot with
  | .ready l _ =>
    if l = loc then ({ b with discard := none }, true, false)
    else ({ b with slot := .pending loc false, discard := none }, false, true)
  | .pending l _ => if l = loc then (b, false, false) else ({ b with slot := .pending loc false }, false, true)
  | .free => ({ b with slot := .pending loc false }, false, false)

/-- Counts a read discard (R76). -/
def Counters.readDiscard (n : Counters) : Counters := { n with readDiscards := n.readDiscards + 1 }

/-- Counts a busy refusal (R76). -/
def Counters.busyRefusal (n : Counters) : Counters := { n with busyRefusals := n.busyRefusals + 1 }

/-- A read of the module address in RESTORE (R143, R169).  One that is NACKed keeps treatment READ-SLOT too, as R143 and R169
give it, and not REFUSE, as R141 has a transaction refused at its address byte; so the comparison of R173 waits for its end.
Which of the two holds is the model's choice (log entry 51). -/
def State.readSlotDecide (s : State) (k : CageId) (h : InHand) : State :=
  let c := s.cage k
  let r := c.buffers.decideRead c.gate.ctrl
  let s1 := (s.modBuffers k fun _ => r.1).modGate k fun g =>
    g.downStop.hand { h with treatment := .readSlot, stage := .data, served := r.2.1 } (if r.2.1 then .ack else .nack)
  if r.2.2 then s1.count k Counters.readDiscard else s1

/-- The gate's decision at a complete address byte (R143). -/
def State.decideAddress (s : State) (k : CageId) (h : InHand) (addr : BitVec 7) (read cdaLow : Bool) : State :=
  let toModule : Bool := addr = s.profile.moduleAddr
  let h1 := { h with addressByte := some (addressByteOf addr read), toModule := toModule }
  let st := s.stateOf k
  if h.treatment = .refuse then s.modGate k fun g => g.hand { h1 with stage := .data } .nack
  else if toModule && !read then s.modGate k fun g => g.hand { h1 with stage := .offset } .ack
  else if st.relays then s.modGate k fun g => g.startRelay h1 .relay cdaLow
  else if toModule && st = .restore then s.readSlotDecide k h1
  else s.modGate k fun g => g.refuseRest h1 .nack

/-- Whether an offset byte is intercepted (R145): a BASE position whose first matching rule is INTERCEPT. -/
def intercepted (table : List Rule) (offset : Byte) : Bool :=
  offset.toNat < 128 &&
    (match ruleOf table .base offset with
      | some (_, r) => r.action = .intercept
      | none => false)

/-- A DEFER write at its offset byte (R164): joined, refused for a full queue, or taken as a pointer write by a CLOSED one. -/
def State.deferOffset (s : State) (k : CageId) (h : InHand) (offset : Byte) : State :=
  let b := (s.cage k).buffers
  if b.closed then
    s.modGate k fun g => g.downStop.hand { h with treatment := .defer, stage := .data, place := .closed } .ack
  else if b.queue.length < 4 then
    (s.modBuffers k fun b =>
      { b with queue := b.queue ++ [{ sheet := h.refSheet, offset := offset, data := [], filling := true }] }).modGate k
      fun g => g.downStop.hand { h with treatment := .defer, stage := .data, place := .queued } .ack
  else (s.modGate k fun g => g.refuseRest h .nack).count k Counters.busyRefusal

/-- The gate's decision at the offset byte of a write to the module address (R145, R146). -/
def State.decideOffset (s : State) (k : CageId) (h : InHand) (offset : Byte) (cdaLow : Bool) : State :=
  let h1 := { h with offset := some offset }
  if intercepted s.profile.rules offset then
    s.modGate k fun g => g.downStop.hand { h1 with treatment := .intercept, stage := .data } .ack
  else
    match s.stateOf k with
    | .live => s.modGate k fun g => g.startRelay h1 .relayCapture cdaLow
    | .held => s.modGate k fun g => g.startRelay h1 .relay cdaLow
    | .faulted => s.modGate k fun g => g.startRelay h1 .relay cdaLow
    | .restore => s.deferOffset k h1 offset
    | _ => s.modGate k fun g => g.refuseRest h1 .nack

/-! ## The relay (R144, R147, R150, R152) -/

/-- Both cursors as the module ACKs an offset byte (R152). -/
def Gate.offsetTaken (g : Gate) (offset : Byte) : Gate :=
  { g with ctrl := { g.ctrl with pointer := offset }, modc := { g.modc with pointer := some offset } }

/-- Both cursors one advance step on (R152). -/
def Gate.byteTaken (g : Gate) : Gate :=
  { g with ctrl := { g.ctrl with pointer := advance g.ctrl.pointer }, modc := g.modc.step 1 }

/-- The cage port's answer to a relayed address or offset (R144, R147, R150), which ends a hold of CCL (R160): passed upstream;
ACK goes on to the offset or to RELAYING, NACK refuses the rest, but at another address every later byte passes through all the
same (log entry 15). -/
def Gate.downAnswer (g : Gate) (h : InHand) (ack : Bool) : Gate :=
  match h.stage with
  | .downAddress =>
    let g1 := { g with port := .busy }
    match h.offset with
    | some _ => if ack then { g1.stopStall with inHand := some { h with stage := .downOffset } } else g1.refuseRest h .nack
    | none =>
      if ack || !h.toModule then
        { (g1.hand { h with stage := .data } (if ack then .ack else .nack)) with relay := .relaying }
      else g1.refuseRest h .nack
  | .downOffset =>
    match h.offset with
    | some o =>
      if ack then { ((g.offsetTaken o).hand { h with stage := .data } .ack) with relay := .relaying }
      else g.refuseRest h .nack
    | none => g
  | _ => g

/-- The largest number of data bytes of a RELAY-CAPTURE write (R147). -/
def captureMax : Nat := 256

/-- A data byte of a relayed write to the module (R147): after a refused byte, or past the bound of a RELAY-CAPTURE write,
the gate answers NACK itself and stops the cage port; else the module's answer is passed up, and a taken byte moves both
cursors, is noted at position 125 and kept for the capture. -/
def Gate.relayByte (g : Gate) (h : InHand) (b : Byte) (ack : Bool) : Gate :=
  let h1 := h.counted
  if h.nacked || (h.treatment == .relayCapture && captureMax ≤ h.data.length) then
    (g.hand { h1 with nacked := true } .nack).applySelect.downStop
  else if ack then
    let h2 := { h1 with
      sheetSelect := if g.ctrl.pointer = 125 then some b else h1.sheetSelect
      data := if h.treatment = .relayCapture then h1.data ++ [b] else h1.data }
    g.byteTaken.hand h2 .ack
  else g.hand { h1 with nacked := true } .nack

/-- A data byte from the controller, by the treatment of the transaction in hand (R144, R147, R149, R153). -/
def Gate.writeByte (g : Gate) (h : InHand) (b : Byte) (ack : Bool) : Gate :=
  match h.treatment with
  | .intercept => g.hand { h.counted with data := if h.data.length < 2 then h.data ++ [b] else h.data } .ack
  | .relayCapture => g.relayByte h b ack
  | .relay => if h.toModule then g.relayByte h b ack else g.hand h.counted (if ack then .ack else .nack)
  | .refuse => g.hand h.counted .nack
  | _ => g

/-- A byte of a relayed read (R150): passed up, and the controller's acknowledge down; from the module it moves both cursors.
The controller's NACK ends a read of the module, which supplies no further byte; a line that no one drives, of an ended
read or a refused one, gives 0xFF (R153). -/
def Gate.readByte (g : Gate) (h : InHand) (b : Byte) (ack : Bool) : Gate :=
  match h.treatment with
  | .relay =>
    if h.toModule then
      if h.nacked then g.hand h.counted (.byte 0xFF) else g.byteTaken.hand { h.counted with nacked := !ack } (.byte b)
    else g.hand h.counted (.byte b)
  | .refuse => g.hand h.counted (.byte 0xFF)
  | _ => g

/-- A byte the gate supplies for a read in RESTORE (R170): the slot's, or 0xFF past its data and after the slot has gone; a
served byte moves the controller cursor.  The controller's NACK ends the read. -/
def Gate.slotByte (g : Gate) (h : InHand) (slot : ReadSlot) (ack : Bool) : Gate :=
  let b : Byte :=
    match slot with
    | .ready _ data => data.getD h.upperBytes 0xFF
    | _ => 0xFF
  if h.served && !h.nacked then
    { (g.hand { h.counted with nacked := !ack } (.byte b)) with ctrl := { g.ctrl with pointer := advance g.ctrl.pointer } }
  else g.hand h.counted (.byte 0xFF)

/-! ## DEFER writes (R165–R167) -/

/-- The FILLING entry at the tail of the queue, if one is there. -/
def Buffers.filling? (b : Buffers) : Option DeferEntry := b.queue.find? fun e => e.filling

/-- Replaces the FILLING entry of the queue by what `f` makes of it, or takes it out. -/
def Buffers.mapFilling (b : Buffers) (f : DeferEntry → Option DeferEntry) : Buffers :=
  { b with queue := b.queue.filterMap fun e => if e.filling then f e else some e }

/-- The entry of a DEFER write in hand: at the tail of the queue or held by the gate alone. -/
def Cage.deferEntry? (c : Cage) (h : InHand) : Option DeferEntry :=
  match h.place with
  | .queued => c.buffers.filling?
  | .detached e => some e
  | .closed => none

/-- The controller cursor after a DEFER write whose offset and `data` the gate ACKed (R13, R167). -/
def Cursor.deferred (c : Cursor) (offset : Byte) (data : List Byte) (sheet : Option Byte) : Cursor :=
  { sheet := sheet.getD c.sheet, pointer := advanceN offset data.length }

/-- A data byte of a DEFER write (R165, R166): placed in its entry; a 17th byte discards the entry; a first byte meeting a
CLOSED queue is refused.  A refusal counts, and the controller cursor moves as for a write refused there; a sheet that an
ACKed byte selected is owed to the write's end (R165).  A channel that waits in DRAIN for the discarded entry goes on (R168); a
comparison that waits for the transaction waits to its end (R173). -/
def State.deferByte (s : State) (k : CageId) (h : InHand) (b : Byte) : State :=
  let offset := h.offset.getD 0
  match (s.cage k).deferEntry? h with
  | none =>
    (s.modGate k fun g =>
      { (g.refuseRest { h.counted with sheetSelect := none } .nack) with ctrl := { g.ctrl with pointer := offset } }).count k
      Counters.busyRefusal
  | some e =>
    if e.data.length < 16 then
      let e1 := { e with data := e.data ++ [b] }
      let h1 := { h.counted with
        sheetSelect := if advanceN offset e.data.length = 125 then some b else h.sheetSelect }
      match h.place with
      | .detached _ => s.modGate k fun g => g.hand { h1 with place := .detached e1 } .ack
      | _ => (s.modBuffers k fun q => q.mapFilling fun _ => some e1).modGate k fun g => g.hand h1 .ack
    else
      let s1 := match h.place with
        | .queued => s.modBuffers k fun q => q.mapFilling fun _ => none
        | _ => s
      ((s1.modGate k fun g =>
        { (g.refuseRest { h.counted with place := .closed } .nack) with
          ctrl := { g.ctrl with pointer := advanceN offset e.data.length } }).count k
        Counters.busyRefusal).resumeDrain k

/-- The end of a DEFER write (R167, R168): a write with no data placed is a pointer write and its entry leaves; else the
entry becomes COMPLETE, or, held by the gate alone, is handed to the journal.  The controller cursor moves by R13. -/
def State.endDefer (s : State) (k : CageId) (h : InHand) : State :=
  match h.offset with
  | none => s
  | some offset =>
    let data := match (s.cage k).deferEntry? h with
      | some e => e.data
      | none => []
    let s1 := s.modGate k fun g => { g with ctrl := g.ctrl.deferred offset data h.sheetSelect }
    match h.place with
    | .queued =>
      s1.modBuffers k fun q => q.mapFilling fun e => if e.data = [] then none else some { e with filling := false }
    | .detached e => if e.data = [] then s1 else s1.captureEntry k e
    | .closed => s1

/-! ## The end of a transaction (R148, R149, R151, R152, R155) -/

/-- The directive an intercepted transaction carries, if it carried a code (R149). -/
def InHand.directive? (h : InHand) : Option Directive :=
  match h.data with
  | [] => none
  | code :: rest => some { code := code, arg := rest.head? }

/-- Hands a RELAY-CAPTURE write to the journal (R27, R148): the offset, the data bytes the module took, the reference sheet
latched at its start. -/
def State.handOver (s : State) (k : CageId) (h : InHand) : State :=
  match h.treatment, h.offset with
  | .relayCapture, some offset => s.capture k h.refSheet offset h.data
  | _, _ => s

/-- The gate without a transaction in hand, in the given relay state, its stall timer stopped, and the cage port after a
stop or held in the repeated-start position (R141, R151). -/
def Gate.ended (g : Gate) (relay : RelayState) (repeated : Bool) : Gate :=
  { g with
    relay := relay
    inHand := none
    stallUse := .stopped
    stallElapsed := 0
    port := if repeated && g.relay == .relaying && g.port == .busy then .repeated else .free }

/-- A served read's slot becomes FREE when the read ends (R170). -/
def State.endSlotRead (s : State) (k : CageId) (h : InHand) : State :=
  if h.served then s.modBuffers k fun b => { b with slot := .free, discard := none } else s

/-- The end of the transaction in hand at a stop or repeated start, handled by its treatment (R148); the directive of an
intercepted write arrives once the gate has let go of it (R149, R175), and a channel that waits for the end of a transaction
that is, or was, a DEFER write or a held read goes on (R168, R173).  Where a repeated start brings a FORGET that begins a cursor
return, the return looks at CDA before the transaction that the repeated start opens, hence at once (the model's choice, log
entry 49). -/
def State.endTransaction (s : State) (k : CageId) (h : InHand) (repeated : Bool) : State :=
  let close := fun s : State => s.modGate k fun g => g.ended .idle repeated
  match h.treatment with
  | .relayCapture => close ((s.modGate k Gate.applySelect).handOver k h)
  | .relay => close (s.modGate k Gate.applySelect)
  | .intercept =>
    match h.directive? with
    | some d => (close s).arrive k d
    | none => close s
  | .defer => (close (s.endDefer k h)).resumeChannel k
  | .readSlot => (close (s.endSlotRead k h)).resumeChannel k
  | .refuse =>
    match h.sheetSelect with
    | some v => (close (s.modGate k fun g => { g with ctrl := { g.ctrl with sheet := v } })).resumeChannel k
    | none => (close s).resumeChannel k
  | .undecided => close s

/-- The gate in HUNT, its stall timer at 0 for the measure of the bus-free interval (R156).  A cage port held in the
repeated-start position is freed as after a stop (log entry 38). -/
def Gate.hunt (g : Gate) : Gate :=
  { (g.ended .hunt false) with stallUse := .busFree }

/-- The fault of a stall (R154, R155): the address byte, or 0xFF while it is incomplete, and the data bytes completed. -/
def State.logStall (s : State) (k : CageId) (h : InHand) : State :=
  s.logFault .upstreamStall (some k)
    (match h.addressByte with
      | some b => b.toNat
      | none => 255)
    (match h.addressByte with
      | some _ => h.upperBytes
      | none => 0)

/-- The stall action (R154, R155): in RELAYING the downstream end, with a byte of a read in progress clocked in and counted as
supplied, then cursors and capture; in HOLDING by the treatment; then the fault, and HUNT. -/
def State.stall (s : State) (k : CageId) (h : InHand) (inRead : Bool) : State :=
  let hunt := fun s : State => (s.logStall k h).modGate k Gate.hunt
  match h.treatment with
  | .relayCapture => hunt ((s.modGate k Gate.applySelect).handOver k h)
  | .relay =>
    hunt (s.modGate k fun g =>
      if inRead && h.toModule && h.offset.isNone && !h.nacked && g.relay == .relaying then g.byteTaken else g.applySelect)
  | .defer => (hunt (s.endDefer k h)).resumeChannel k
  | .readSlot => (hunt (s.endSlotRead k h)).resumeChannel k
  | .refuse =>
    match h.sheetSelect with
    | some v => (hunt (s.modGate k fun g => { g with ctrl := { g.ctrl with sheet := v } })).resumeChannel k
    | none => (hunt s).resumeChannel k
  | .intercept => hunt s
  | .undecided => hunt s

/-! ## Removal at the gate (R153) -/

/-- What a removal does to a transaction that is relayed or about to be (R153): it ends for the cage port without a stop, the
bytes taken before are accounted, nothing is handed to the journal, and the rest is refused in HOLDING.  An address or
offset byte whose acknowledge is held for the cage port is answered with NACK.  The stall timer stops (R94); an upstream use
keeps its value, for an expiry that R161 lets come after the removal (log entry 16). -/
def Gate.removed (g : Gate) : Gate :=
  match g.inHand with
  | none => { g with port := .free }
  | some h =>
    if h.treatment = .relayCapture ∨ h.treatment = .relay then
      let g1 := g.applySelect
      { g1 with
        relay := .holding
        port := .free
        clearing := false
        stallUse := .stopped
        stallElapsed := if g.stallUse = .upstream then g.stallElapsed else 0
        answer := if g.stretching then .nack else g.answer
        inHand := some { h with treatment := .refuse, stage := .data, sheetSelect := none, data := [] } }
    else { g with port := .free }

/-! ## A cage port that cannot be used (R158–R160) -/

/-- Counts a bus clear that released the line (R76, R158). -/
def Counters.busClear (n : Counters) : Counters := { n with busClears := n.busClears + 1 }

/-- The end of a relay that the cage port cannot carry (R159, R160): the waiting or running transaction is refused with NACK
to its stop. -/
def Gate.refuseStuck (g : Gate) : Gate :=
  match g.inHand with
  | none => g.endStuck
  | some h => { (g.refuseRest { h with sheetSelect := none, data := [] } .nack) with clearing := false }

/-- A bus clear of the gate has failed (R159): BUS-STUCK is logged, a waiting relay is refused, and the cage goes to FAULTED
by R72. -/
def State.gateStuck (s : State) (k : CageId) : State :=
  let g := (s.cage k).gate
  let s1 := s.logFault .busStuck (some k) 255 g.checkSet.clearPulses
  let s2 := s1.modGate k fun g => if g.stretching then g.refuseStuck else g.endStuck
  s2.busStuckMove k

/-- The gate at the end of a hold of CCL (R160): the byte in progress is answered with NACK, a read's after its rest as ones,
and a data byte so answered is completed; the rest is refused.  That the cage port then stands as after a stop, though R160
names none, is the model's choice (log entry 50). -/
def Gate.refuseHeld (g : Gate) (h : InHand) : Gate :=
  if g.relay = .relaying then
    g.refuseRest { h.counted with sheetSelect := none, data := [] } (if h.reads then .cut else .nack)
  else g.refuseRest { h with sheetSelect := none, data := [] } .nack

/-- A module has held CCL for the stuck detection time during a relay (R160): the bytes taken are accounted and, in LIVE,
captured, the rest is refused, BUS-STUCK is logged, and the cage goes to FAULTED by R72. -/
def State.cclHeld (s : State) (k : CageId) (h : InHand) : State :=
  let s1 := (s.modGate k Gate.applySelect).handOver k h
  let s2 := (s1.modGate k fun g => g.refuseHeld h).logFault .busStuck (some k) 255 0
  s2.busStuckMove k

end Sys2Proof.Machine
end

