-- ==== Sys2Proof/Machine/CmdDirective.lean ====
section
/-! DEFINITION. The meanings of the directive commands: a directive arrives at the decoder from an upper port (chapter 9). -/

namespace Sys2Proof.Machine

/-- A directive arrives from upper port `k`, where the blocks take events (R77, R78). -/
def State.directive (s : State) (k : CageId) (code : Byte) (arg : Option Byte) : State :=
  if s.inService then s.arrive k { code := code, arg := arg } else s

/-- UNKNOWN_DIRECTIVE_CODE (R176): a code outside the table is refused with reason CODE. -/
def execUnknownDirectiveCode (k : CageId) (code : Byte) (arg : Option Byte) (s : State) : Result :=
  match lookupCode code with
  | none => .next (s.directive k code arg)
  | some _ => .next s

/-- RESEAT (R183). -/
def execReseat (k : CageId) (arg : Option Byte) (s : State) : Result := .next (s.directive k Code.reseat.byte arg)

/-- RESUME (R184). -/
def execResume (k : CageId) (arg : Option Byte) (s : State) : Result := .next (s.directive k Code.resume.byte arg)

/-- FORGET (R185). -/
def execForget (k : CageId) (arg : Option Byte) (s : State) : Result := .next (s.directive k Code.forget.byte arg)

/-- RESTORE-NOW (R186). -/
def execRestoreNow (k : CageId) (arg : Option Byte) (s : State) : Result :=
  .next (s.directive k Code.restoreNow.byte arg)

/-- FREEZE (R42, R187). -/
def execFreeze (k : CageId) (arg : Option Byte) (s : State) : Result := .next (s.directive k Code.freeze.byte arg)

/-- THAW (R43, R187). -/
def execThaw (k : CageId) (arg : Option Byte) (s : State) : Result := .next (s.directive k Code.thaw.byte arg)

/-- REPORT (R188, R206). -/
def execReport (k : CageId) (arg : Option Byte) (s : State) : Result := .next (s.directive k Code.report.byte arg)

/-- INJECT (R187, R195). -/
def execInject (k : CageId) (arg : Option Byte) (s : State) : Result := .next (s.directive k Code.inject.byte arg)

/-- LOG (R189, R207). -/
def execLog (k : CageId) (arg : Option Byte) (s : State) : Result := .next (s.directive k Code.log.byte arg)

/-- CLEARLOG (R189, R199). -/
def execClearLog (k : CageId) (arg : Option Byte) (s : State) : Result := .next (s.directive k Code.clearLog.byte arg)

/-- RELOAD (R189, R203). -/
def execReload (k : CageId) (arg : Option Byte) (s : State) : Result := .next (s.directive k Code.reload.byte arg)

/-- The LOST frame (R204, R205). -/
def lostCountFrame (n : Nat) : Frame := frameOf .lost partByte (BitVec.ofNat 8 n) 0 0 0 0

/-- The head frame leaves the queue (R205): with the lost count above 0 a LOST frame takes the place it freed, and the count
returns to 0. -/
def NoticePort.leave (n : NoticePort) : NoticePort :=
  match n.queue with
  | [] => n
  | _ :: rest => if n.lost = 0 then { n with queue := rest } else { queue := rest ++ [lostCountFrame n.lost], lost := 0 }

/-- NOTICE_FRAME_SENT (R205): the head frame's last stop bit has ended. -/
def execNoticeFrameSent (s : State) : Result := .next { s with notice := s.notice.leave }

end Sys2Proof.Machine
end

