-- ==== Sys2Proof/Machine/CmdGate.lean ====
section
/-! DEFINITION. The meanings of the Pass-Through Gate's commands: the conditions and bytes of the upper port, the cage port's
answers, stalls, and stuck buses (chapters 7 and 8). -/

namespace Sys2Proof.Machine

/-! ## What the gate can take -/

/-- The transaction in hand at a stage, where the controller may clock the bus: the gate does not hold UCL for a check of the
sequencer's (R157). -/
def Gate.at? (g : Gate) (stage : Stage) : Option InHand :=
  match g.inHand with
  | some h => if h.stage = stage ∧ !g.stuckForSeq then some h else none
  | none => none

/-- The transaction in hand, where the controller may end it: UCL is not held (R94, R157). -/
def Gate.endable? (g : Gate) : Option InHand :=
  match g.inHand with
  | some h => if g.stretching ∨ g.stuckForSeq then none else some h
  | none => none

/-- While a reset load is in progress the stall timer does not run (R143). -/
def State.quietStall (s : State) (k : CageId) : State := if s.resetLoading then s.modGate k Gate.stopStall else s

/-- A byte in HUNT (R156): the lines are released, so it goes unacknowledged or reads 0xFF, and the bus is not free. -/
def Gate.huntByte (g : Gate) (a : UpAnswer) : Gate := { g with answer := a, stallElapsed := 0 }

/-- A command of the controller's side on cage `k`: passed over while RESET_n is asserted (R141), answered by `hunt` in HUNT
(R156), else done by `f`, with the stall timer quiet while a reset load is in progress. -/
def State.upper (s : State) (k : CageId) (hunt : UpAnswer) (f : Gate → State) : State :=
  let g := (s.cage k).gate
  if s.lineReset then s
  else if g.relay = .hunt then s.modGate k fun g => g.huntByte hunt
  else (f g).quietStall k

/-! ## Conditions and bytes of the upper port -/

/-- Opens a transaction in hand (R141): its reference sheet latched, the upstream use of the stall timer started unless UCL is
held for a check of the sequencer's (R157). -/
def Gate.openTransaction (g : Gate) (loading : Bool) : Gate :=
  let g1 := { g with relay := .holding, inHand := some (InHand.opened g.ctrl.sheet loading), answer := .none }
  if g.stuckForSeq then g1 else g1.restartStall

/-- UPPER_START (R141, R90): in IDLE the gate adopts a pending timing set and opens a transaction. -/
def execUpperStart (k : CageId) (s : State) : Result :=
  .next (s.upper k .none fun g =>
    if g.relay = .idle then (s.adoptGate k).modGate k fun g => g.openTransaction s.resetLoading else s)

/-- ADDRESS_BYTE (R143). -/
def execAddressByte (k : CageId) (addr : BitVec 7) (read cdaLow : Bool) (s : State) : Result :=
  .next (s.upper k .nack fun g =>
    match g.at? .address with
    | some h => s.decideAddress k h addr read cdaLow
    | none => s)

/-- OFFSET_BYTE (R145, R146). -/
def execOffsetByte (k : CageId) (offset : Byte) (cdaLow : Bool) (s : State) : Result :=
  .next (s.upper k .nack fun g =>
    match g.at? .offset with
    | some h => s.decideOffset k h offset cdaLow
    | none => s)

/-- WRITE_DATA_BYTE (R144, R147, R149, R153): a data byte of a write that is not a DEFER write. -/
def execWriteDataByte (k : CageId) (b : Byte) (ack : Bool) (s : State) : Result :=
  .next (s.upper k .nack fun g =>
    match g.at? .data with
    | some h => if h.reads ∨ h.treatment = .defer then s else s.modGate k fun g => g.writeByte h b ack
    | none => s)

/-- DEFER_DATA_BYTE (R165, R166). -/
def execDeferDataByte (k : CageId) (b : Byte) (s : State) : Result :=
  .next (s.upper k .nack fun g =>
    match g.at? .data with
    | some h => if h.treatment = .defer then s.deferByte k h b else s
    | none => s)

/-- READ_DATA_BYTE (R144, R150, R153): a byte of a relayed or refused read. -/
def execReadDataByte (k : CageId) (b : Byte) (s : State) (ack : Bool := true) : Result :=
  .next (s.upper k (.byte 0xFF) fun g =>
    match g.at? .data with
    | some h => if h.reads then s.modGate k fun g => g.readByte h b ack else s
    | none => s)

/-- SLOT_READ_BYTE (R170): a byte the gate supplies for a read in RESTORE. -/
def execSlotReadByte (k : CageId) (s : State) (ack : Bool := true) : Result :=
  .next (s.upper k (.byte 0xFF) fun g =>
    match g.at? .data with
    | some h => if h.treatment = .readSlot then s.modGate k fun g => g.slotByte h (s.cage k).buffers.slot ack else s
    | none => s)

/-- The end of HUNT (R156): the gate is IDLE, and a transaction of the sequencer that waited is looked at (R157). -/
def State.endHunt (s : State) (k : CageId) : State := (s.modGate k fun g => g.ended .idle false).resumeSeq k

/-- UPPER_STOP (R141, R148, R156): the end of the transaction in hand is handled by its treatment, and the gate is IDLE. -/
def execUpperStop (k : CageId) (s : State) : Result :=
  let g := (s.cage k).gate
  if s.lineReset then .next s
  else if g.relay = .hunt then .next (s.endHunt k)
  else
    match g.endable? with
    | some h => .next ((s.endTransaction k h false).resumeSeq k)
    | none => .next s

/-- UPPER_REPEATED_START (R141, R151): the end is handled, and a new transaction opened with no timing set adopted. -/
def execUpperRepeatedStart (k : CageId) (s : State) : Result :=
  .next (s.upper k .none fun g =>
    match g.endable? with
    | some h => (s.endTransaction k h true).modGate k fun g => g.openTransaction s.resetLoading
    | none => s)

/-- Whether the stall timer's upstream use expires `waited` milliseconds after it was last started (R94): the value has
reached the upstream stall limit, in that use or where a removal has stopped it at that value (R161; log entry 16). -/
def Gate.stallExpires (g : Gate) (waited : Nat) : Bool :=
  (g.stallUse == .upstream || g.stallUse == .stopped) && decide (g.active.stall ≤ max g.stallElapsed waited)

/-- UPSTREAM_STALL (R94, R154, R155): the stall timer expires in HOLDING or RELAYING, and the stall action is taken; a byte
taken before it has restarted the timer, and no stall occurs. -/
def execUpstreamStall (k : CageId) (inRead : Bool) (s : State) (waited : Nat := 255) : Result :=
  match (s.cage k).gate.endable? with
  | some h =>
    if !s.resetLoading && (s.cage k).gate.stallExpires waited then .next (s.stall k h (inRead && h.reads)) else .next s
  | none => .next s

/-- BUS_FREE_INTERVAL (R156): in HUNT UCL and UDA have been high without a break for `free` milliseconds, measured on the stall
timer.  Where that is the upstream stall limit of the gate's active set HUNT ends; below it the timer shows the measure. -/
def execBusFreeInterval (k : CageId) (s : State) (free : Nat := 255) : Result :=
  let g := (s.cage k).gate
  if g.relay = .hunt then
    if g.active.stall ≤ free then .next (s.endHunt k) else .next (s.modGate k fun g => { g with stallElapsed := free })
  else .next s

/-! ## The cage port -/

/-- Whether the gate waits for the cage port's answer: no check of CDA and no bus clear runs (R144, R147, R150, R157). -/
def Gate.awaitsAnswer (g : Gate) : Bool := g.stretching && g.stallUse != .stuck && !g.clearing

/-- DOWNSTREAM_ADDRESS_ANSWER (R144, R147, R150). -/
def execDownstreamAddressAnswer (k : CageId) (ack : Bool) (s : State) : Result :=
  let g := (s.cage k).gate
  match g.inHand with
  | some h => if g.awaitsAnswer then .next (s.modGate k fun g => g.downAnswer h ack) else .next s
  | none => .next s

/-- The channel's transaction is begun, or begun again from its start, after its look at CDA (R123): its busy schedule begins
anew from 0, and a combined read from its pointer write (log entry 36). -/
def State.chanStart (s : State) (c : Fin 4) (x : ChannelCtx) : State :=
  (s.setCtx c { x with stuck := .none, pointed := false }).startDelay c

/-- The transaction that waited for CDA is started (R157, R158): a relay goes on to the cage port's answer, a sequencer's
transaction is in hand. -/
def State.gateStart (s : State) (k : CageId) : State :=
  s.modCage k fun c =>
    if c.gate.stretching then { c with gate := { c.gate with clearing := false, stallUse := .stopped, stallElapsed := 0 } }
    else { c with gate := c.gate.endStuck, seq := { c.seq with started := true } }

/-- CDA_RELEASED (R123, R157): the transaction that waited is started without a bus clear. -/
def execCdaReleased (k : CageId) (s : State) : Result :=
  let g := (s.cage k).gate
  if g.stallUse = .stuck ∧ !g.clearing then .next (s.gateStart k)
  else
    match s.channelOf k with
    | some (c, x) => if x.stuck = .waiting then .next (s.chanStart c x) else .next s
    | none => .next s

/-- The bus clear of the gate begins at the stuck detection time, the elapsed value brought to it (R94, R157, R158; log entry
3). -/
def Gate.beginClear (g : Gate) : Gate :=
  { g with clearing := true, stallUse := .stopped, stallElapsed := max g.stallElapsed g.checkSet.stuckDetect }

/-- The bus clear of a channel begins at the stuck detection time of its active set, the delay timer stopped there (R92, R123,
R158; log entry 3). -/
def State.chanClear (s : State) (c : Fin 4) (x : ChannelCtx) : State :=
  (s.setCtx c { x with stuck := .clearing }).modChannel c fun h =>
    { h with delayRunning := false, delay := max h.delay h.active.stuckDetect }

/-- STUCK_DETECTION_EXPIRY (R123, R157): CDA is still low at the stuck detection time, and the bus clear begins. -/
def execStuckDetectionExpiry (k : CageId) (s : State) : Result :=
  let g := (s.cage k).gate
  if g.stallUse = .stuck ∧ !g.clearing then
    .next (s.modGate k Gate.beginClear)
  else
    match s.channelOf k with
    | some (c, x) => if x.stuck = .waiting then .next (s.chanClear c x) else .next s
    | none => .next s

/-- A channel's bus clear has failed (R123): BUS-STUCK, and the restore ends in FAULTED without a cursor return. -/
def State.chanStuck (s : State) (c : Fin 4) (x : ChannelCtx) : State :=
  (s.logFault .busStuck (some x.cage) c.val s.channels[c].active.clearPulses).failStuck c x

/-- BUS_CLEAR_END (R123, R158, R159): a released line gets a stop on the cage port, counts a bus clear and starts the
transaction that waited; else the clear has failed. -/
def execBusClearEnd (k : CageId) (released : Bool) (s : State) : Result :=
  if (s.cage k).gate.clearing then
    if released then .next (((s.count k Counters.busClear).modGate k Gate.downStop).gateStart k)
    else .next (s.gateStuck k)
  else
    match s.channelOf k with
    | some (c, x) =>
      if x.stuck = .clearing then
        if released then .next ((s.count k Counters.busClear).chanStart c x) else .next (s.chanStuck c x)
      else .next s
    | none => .next s

/-- How long the module has held CCL, as the stall timer measures it (R160): from `held`, or from the hold it measures
already. -/
def Gate.holdTime (g : Gate) (held : Nat) : Nat := if g.stallUse = .hold then max g.stallElapsed held else held

/-- The module has released CCL before the stuck detection time (R160): the relay goes on, the hold measured no longer.  The
upstream measure starts again from 0 where the gate waits for the controller (R94; log entry 21). -/
def Gate.holdEnds (g : Gate) : Gate := if g.stretching then g.stopStall else g.restartStall

/-- CCL_HOLD_EXPIRY (R160): a module holds CCL while a relay is in progress.  The upstream measure stops, and the stall timer
measures the hold; at the stuck detection time the relay is given up, and at a release before it the relay goes on. -/
def execCclHoldExpiry (k : CageId) (s : State) (held : Nat := 255) (released : Bool := false) : Result :=
  let g := (s.cage k).gate
  match g.inHand with
  | some h =>
    if g.relay = .relaying ∨ g.awaitsAnswer then
      if g.active.stuckDetect ≤ g.holdTime held then .next (s.cclHeld k h)
      else if released then .next (s.modGate k Gate.holdEnds)
      else .next (s.modGate k fun g => { g with stallUse := .hold, stallElapsed := g.holdTime held })
    else .next s
  | none => .next s

end Sys2Proof.Machine
end

