-- ==== Sys2Proof/Machine/Profile.lean ====
section
/-! DEFINITION. The profile image: its check word, the outcome of a load, the adjustment of every value, and what the end
of a load does to each block (chapter 11). -/

namespace Sys2Proof.Machine

/-! ## The image (R200) -/

/-- The byte of the flash at an offset; a flash that does not answer reads 0xFF (R201). -/
def byteAt (img : List Byte) (i : Nat) : Byte := img.getD i 0xFF

/-- A multi-byte value of the image: two bytes, high byte first (R200). -/
def wordAt (img : List Byte) (i : Nat) : Nat := (byteAt img i).toNat * 256 + (byteAt img (i + 1)).toNat

/-- One bit step of the CRC-16 of R200. -/
def crcBit (c : BitVec 16) : BitVec 16 := if c.msb then (c <<< 1) ^^^ 0x1021 else c <<< 1

/-- One byte of the CRC-16, most significant bit first (R200). -/
def crcByte (c : BitVec 16) (b : Byte) : BitVec 16 :=
  let c0 := c ^^^ (b.zeroExtend 16 <<< 8)
  crcBit (crcBit (crcBit (crcBit (crcBit (crcBit (crcBit (crcBit c0)))))))

/-- The CRC-16 of R200: x^16 + x^12 + x^5 + 1, initial value 0xFFFF, no final inversion. -/
def crc16 (bs : List Byte) : BitVec 16 := bs.foldl crcByte 0xFFFF

/-- The body length L of the header (R200). -/
def bodyLength (img : List Byte) : Nat := wordAt img 3

/-- The check word of the image (R200). -/
def checkWord (img : List Byte) : BitVec 16 := BitVec.ofNat 16 (wordAt img (5 + bodyLength img))

/-- The bytes the check word covers: offset 0 to offset 4 + L (R200). -/
def checkedBytes (img : List Byte) : List Byte := (List.range (5 + bodyLength img)).map (byteAt img)

/-- What a load finds (R201); a BAD finding carries its cause. -/
inductive Finding where
  | absent
  | bad (cause : Nat)
  | good
  deriving DecidableEq, Repr

/-- The decision of R201, in the order the loader reads. -/
def finding (img : List Byte) : Finding :=
  if byteAt img 0 ≠ 0xC3 ∨ byteAt img 1 ≠ 0x3C then .absent
  else if byteAt img 2 ≠ 1 then .absent
  else if bodyLength img < 170 ∨ 202 < bodyLength img then .bad 2
  else if crc16 (checkedBytes img) = checkWord img then .good
  else .bad 1

/-- The outcome of a finding (R201). -/
def Finding.outcome : Finding → LoadOutcome
  | .absent => .absent
  | .bad _ => .bad
  | .good => .good

/-! ## Adjustment at install (R24, R89, R96, R202) -/

/-- A value taken into its range: below it the low bound, above it the high bound (R89, R96). -/
def clamp (lo hi v : Nat) : Nat := max lo (min hi v)

/-- A byte of the image clamped into a range. -/
def clampByte (img : List Byte) (i lo hi : Nat) : Nat := clamp lo hi (byteAt img i).toNat

/-- A two-byte value of the image clamped into a range. -/
def clampWord (img : List Byte) (i lo hi : Nat) : Nat := clamp lo hi (wordAt img i)

/-- The timing set of an image (R200), clamped, with each first check at most its limit (R89). -/
def timingOf (img : List Byte) : TimingSet :=
  let bootLimit := clampWord img 9 50 10000
  let powerLimit := clampWord img 13 100 30000
  { settle := clampWord img 5 10 2550
    bootFirst := min (clampWord img 7 0 2550) bootLimit
    bootLimit := bootLimit
    powerFirst := min (clampWord img 11 0 2550) powerLimit
    powerLimit := powerLimit
    poll := clampByte img 15 1 255
    writeBusy := clampByte img 16 1 255
    stall := clampByte img 17 10 255
    readDiscard := clampByte img 18 1 255
    stuckDetect := clampByte img 19 1 100
    clearPulses := clampByte img 20 1 16
    verifyRetries := clampByte img 21 0 3 }

/-- The budget of an image (R96). -/
def budgetOf (img : List Byte) : Nat := clampWord img 22 0 20000

/-- The inrush factor of an image (R96). -/
def factorOf (img : List Byte) : Nat := clampByte img 24 16 48

/-- The draw table of an image (R96). -/
def drawsOf (img : List Byte) : Vector Nat 8 := Vector.ofFn fun c => clampWord img (25 + 2 * c.val) 0 1000

/-- The area of a probe or identity field (R200): 0 BASE, any other value SHEET with the byte after it. -/
def areaAt (img : List Byte) (i : Nat) : Area := if byteAt img i = 0 then .base else .sheet (byteAt img (i + 1))

/-- A position clamped into its area (R202). -/
def Area.clampPosition : Area → Byte → Byte
  | .base, p => if p.toNat < 128 then p else 127
  | .sheet _, p => if p.toNat < 128 then 128 else p

/-- A probe of an image (R200, R202). -/
def probeAt (img : List Byte) (i : Nat) : Probe :=
  let area := areaAt img i
  { area := area, position := area.clampPosition (byteAt img (i + 2)), mask := byteAt img (i + 3),
    expected := byteAt img (i + 4) }

/-- An identity field of an image (R200), its length clamped to 1–24 (R202). -/
def fieldAt (img : List Byte) (i : Nat) : IdField :=
  let area := areaAt img i
  { area := area, start := area.clampPosition (byteAt img (i + 2)), length := clampByte img (i + 3) 1 24,
    serial := byteAt img (i + 4) ≠ 0 }

/-- The running total of R202: a field that would carry it past `left` is shortened, and those after it are dropped; a
field left without a byte is dropped with them (log entry 19). -/
def fitFields (left : Nat) : List IdField → List IdField
  | [] => []
  | f :: fs =>
    if f.length ≤ left then f :: fitFields (left - f.length) fs
    else if left = 0 then []
    else [{ f with length := left }]

/-- The identity fields of an image (R200, R202). -/
def fieldsOf (img : List Byte) : List IdField :=
  fitFields 24 ((List.range (clampByte img 57 1 4)).map fun n => fieldAt img (58 + 5 * n))

/-- The action of a rule's flags byte (R200, bits 5–4). -/
def actionOf (flags : Byte) : Action :=
  match flags.getLsbD 5, flags.getLsbD 4 with
  | false, false => .record
  | false, true => .marker
  | true, false => .ignore
  | true, true => .intercept

/-- A capture rule of an image, adjusted by R24. -/
def ruleAt (img : List Byte) (i : Nat) : Rule :=
  let flags := byteAt img i
  let sheet := flags.getLsbD 6
  let action := if sheet ∧ actionOf flags = .intercept then .ignore else actionOf flags
  let lo := byteAt img (i + 3)
  let hi := byteAt img (i + 4)
  { area := if sheet then .sheets (byteAt img (i + 1)) (byteAt img (i + 2)) else .base
    lo := if sheet && decide (lo.toNat < 128) then 128 else lo
    hi := if !sheet && decide (127 < hi.toNat) then 127 else hi
    action := action
    verify := flags.getLsbD 3 && decide (action = .record)
    postDelay := if action = .marker then (byteAt img (i + 5)).toNat else 0 }

/-- The capture table from a rule on, ended by the end-of-table mark or after `n` rules (R24, R200). -/
def rulesFrom (img : List Byte) (i : Nat) : Nat → List Rule
  | 0 => []
  | n + 1 => ruleAt img i :: (if (byteAt img i).getLsbD 7 then [] else rulesFrom img (i + 6) n)

/-- The quotas of an image (R200): a cage whose byte lies beyond the body has quota 64. -/
def quotasOf (img : List Byte) : Vector Nat 32 :=
  Vector.ofFn fun k => if k.val + 171 ≤ bodyLength img then (byteAt img (175 + k.val)).toNat else 64

/-- The profile of a GOOD image (R200, R202). -/
def profileOf (img : List Byte) : Profile :=
  { timing := timingOf img
    budget := budgetOf img
    factor := factorOf img
    draws := drawsOf img
    moduleAddr := (byteAt img 41).setWidth 7
    policy := if byteAt img 42 = 0 then .early else .late
    compatible := byteAt img 43 ≠ 0
    probeL := probeAt img 44
    probeH := probeAt img 49
    classPos := Area.clampPosition .base (byteAt img 54)
    classMask := byteAt img 55
    classShift := clampByte img 56 0 7
    fields := fieldsOf img
    rules := rulesFrom img 78 16
    fetchLen := clampByte img 174 1 16
    quotas := quotasOf img }

/-! ## The PROFILE notice and fault (R198, R201, R204) -/

/-- The PROFILE notice (R204). -/
def profileFrame (t : Trigger) (o : LoadOutcome) (check : CheckValue) (kept discarded : Bool) : Frame :=
  let w := match check with
    | .word v => v.toNat
    | .default => 0
  { kind := .profile, cage := partByte, a1 := BitVec.ofNat 8 t.code, a2 := o.code, a3 := hiByte w, a4 := loByte w
    a5 := packBits [discarded, kept, decide (check = .default)] }

/-- A BAD finding logs a PROFILE fault with the trigger and the cause (R201, R198). -/
def State.logFinding (s : State) (t : Trigger) : Finding → State
  | .bad cause => s.logFault .profile none t.code cause
  | _ => s

/-! ## The end of a reset load (R48, R49, R78, R90, R95, R143, R201) -/

/-- The profile a reset load installs (R201). -/
def Finding.installed (img : List Byte) : Finding → Profile
  | .good => profileOf img
  | _ => Profile.default

/-- The check value of a load (R201). -/
def Finding.check (img : List Byte) : Finding → CheckValue
  | .good => .word (checkWord img)
  | _ => .default

/-- The image bytes clocked in when a load ends (R201): the header, and after a good header the body and the check word. -/
def Finding.clocked (img : List Byte) : Finding → Nat
  | .absent => 5
  | .bad cause => if cause = 2 then 5 else 5 + bodyLength img + 2
  | .good => 5 + bodyLength img + 2

/-- The flash port when a load ends (R201): CS_n released. -/
def FlashPort.ended (p : FlashPort) (n : Nat) : FlashPort := { p with selected := false, clocked := n }

/-- Installs the profile: the loader's items, every user's active timing set with all flags clear and no set pending (R90),
and the Power Admission Unit's record (R95). -/
def State.install (s : State) (p : Profile) (o : LoadOutcome) (check : CheckValue) : State :=
  { s with
    cages := s.cages.map fun c =>
      { c with seq := { c.seq with active := p.timing, adoptionDue := false }
               gate := { c.gate with active := p.timing, adoptionDue := false } }
    channels := s.channels.map fun h => { h with active := p.timing, adoptionDue := false }
    power := Power.fresh p
    pendingTiming := none
    loader := { s.loader with profile := p, outcome := o, check := check, load := none, everLoaded := true } }

/-- Changes the cage record of every cage by its number. -/
def State.mapJournals (s : State) (f : CageId → CageRecord → CageRecord) : State :=
  { s with cages := Vector.ofFn fun k => { s.cages[k] with journal := f k s.cages[k].journal } }

/-- The values of R48: every cage record fresh with its quota, every slot free, the journal check value that of the load. -/
def State.freshJournals (s : State) (p : Profile) (check : CheckValue) : State :=
  { s.mapJournals fun k _ => CageRecord.fresh p.quotas[k] with
    store := { slots := (s.store.slots.map Prod.fst).foldl SlotMem.free s.store.slots, checkValue := check } }

/-- The journals kept by R49: the quotas reloaded, the masks absent. -/
def State.keepJournals (s : State) (p : Profile) : State :=
  s.mapJournals fun k j => { j with quota := p.quotas[k], mask := none }

/-- The comparison of R49, or R48 where no reset load has ended since power-on: the state, and whether the journals are
kept. -/
def State.compareJournals (s : State) (p : Profile) (check : CheckValue) : State × Bool :=
  if s.loader.everLoaded && decide (s.store.checkValue = check) then (s.keepJournals p, true)
  else (s.freshJournals p check, false)

/-- What the end of a reset load does to one cage (R78, R143): PPRES_n by the policy, and a transaction still in hand
starts the upstream use of its stall timer, unacknowledged to its end. -/
def Cage.afterLoad (c : Cage) (policy : PresencePolicy) : Cage :=
  { c with
    seq := { c.seq with ppres := ppresFor policy c.seq.shown }
    gate := if c.gate.inHand.isSome && c.gate.relay ≠ .hunt then
        { c.gate with stallUse := .upstream, stallElapsed := 0 }
      else c.gate }

/-- The entry into ADOPT of an ADOPT-pending cage (R78, R79): both times 0, the held lines kept, the adopt phase started. -/
def State.toAdopt (s : State) (k : CageId) : State :=
  (s.modSeq k fun q => { q with state := .adopt, adoptPending := false, bootTime := 0, powerTime := 0 }).startPhase k .adopt

/-- What the cages that waited for the load do then (R78): ADOPT, or SETTLE where a module is present. -/
def State.leaveWaiting (s : State) (k : CageId) : State :=
  let c := s.cage k
  if c.seq.adoptPending then s.toAdopt k
  else if c.seq.state = .empty && c.mpres then s.toSettle k
  else s

/-- The end of a reset load with trigger `t` (R201): the profile installed, the journals by R48 or R49, the fault and the
notice, then the cages and gates go into service (R78, R143). -/
def State.endResetLoad (s : State) (t : Trigger) (img : List Byte) : State :=
  let f := finding img
  let p := f.installed img
  let check := f.check img
  let s0 := { s with loader := { s.loader with flash := s.loader.flash.ended (f.clocked img) } }
  let r := s0.compareJournals p check
  let s1 := (r.1.install p f.outcome check).logFinding t f
  let released := decide (t = .lineReset)
  let s2 := s1.submit (profileFrame t f.outcome check (released && r.2) (released && !r.2))
  let s3 := { s2 with cages := s2.cages.map fun c => c.afterLoad p.policy }
  (List.finRange 32).foldl State.leaveWaiting s3

/-! ## The end of a RELOAD's load (R203) -/

/-- What a GOOD RELOAD hands on (R203): the pending timing set (R91), the pending budget (R103), the draw table and factor at
once (R105), the loader's outcome and check value; then the unit tests the pending budget and checks its head (R103; log
entry 17). -/
def State.handOn (s : State) (img : List Byte) : State :=
  let s1 := (s.placePending (timingOf img)).modPower fun p =>
    { p with pendingBudget := some (budgetOf img), draws := drawsOf img, factor := factorOf img }
  { s1 with loader := { s1.loader with outcome := .good, check := .word (checkWord img) } }.unitTests

/-- The end of a RELOAD's load (R203): GOOD hands its values on, BAD logs PROFILE, and the notice carries the RELOAD's own
outcome with the check value the loader then holds. -/
def State.endReload (s : State) (img : List Byte) : State :=
  let f := finding img
  let s0 := { s with loader := { s.loader with load := none, flash := s.loader.flash.ended (f.clocked img) } }
  let s1 := match f with
    | .good => s0.handOn img
    | .bad _ => s0.logFinding .reload f
    | .absent => s0
  s1.submit (profileFrame .reload f.outcome s1.loader.check false false)

end Sys2Proof.Machine
end

