-- ==== Sys2Proof/Machine/CmdReset.lean ====
section
/-! DEFINITION. The meanings of the reset and load commands, and of the level changes of presence and interrupt. -/

namespace Sys2Proof.Machine

/-! ## Power-on (R50) -/

/-- POWER_ON (R50, R201): every block at its power-on values, the pins as they stand, the power-on load in progress unless
RESET_n is asserted, whose release makes the load in its place (log entry 1). -/
def execPowerOn (s : State) : Result :=
  let s1 := State.powerOn (s.cages.map fun c => (c.mpres, c.mint))
  .next { s1 with
    lineReset := s.lineReset
    loader := if s.lineReset then { s1.loader with load := none, flash := FlashPort.idle } else s1.loader
    pending := s.pending }

/-! ## Line reset (R77) -/

/-- A cage at the assertion of RESET_n (R77, R81, R90, R141, R162, R178): the lines are held, PINT_n is deasserted, and phase,
transaction, buffers and directive slot are abandoned. -/
def Cage.lineAssert (c : Cage) : Cage :=
  { c with
    seq := { c.seq with pint := false, adoptionDue := false, attempt := none, due := .none, ret := none,
                        started := false, carried := none }
    timer := PhaseTimer.stopped
    gate := { Gate.fresh c.gate.active c.gate.modc with ctrl := c.gate.ctrl }
    buffers := Buffers.fresh
    slot := none }

/-- A load is abandoned (R201): CS_n is released, and nothing follows from it (log entry 42). -/
def Loader.abandon (l : Loader) : Loader := { l with load := none, flash := { l.flash with selected := false } }

/-- LINE_RESET_ASSERT (R77): loads, restores, lists, charges, pending sets and notices are lost; the journals and the Fault
Log stay. -/
def execLineResetAssert (s : State) : Result :=
  if s.lineReset then .next s
  else .next { s with
    cages := s.cages.map Cage.lineAssert
    channels := s.channels.map fun h => Channel.fresh h.active
    staged := []
    power := { s.power with pendingBudget := none, list := [], charges := [] }
    loader := s.loader.abandon
    notice := NoticePort.fresh
    pendingTiming := none
    lineReset := true }

/-- Whether a cage becomes ADOPT-pending at line-reset release (R77): its module is present, and the cage was not waiting in
EMPTY, where a module meets MRST_n asserted and is taken through SETTLE (R78; log entry 23). -/
def Seq.adopts (q : Seq) (mpres : Bool) : Bool := mpres && (q.adoptPending || q.state != .empty)

/-- The sequencer record at line-reset release (R50, R77): an ADOPT-pending cage has its lines held, any other is in EMPTY. -/
def Seq.lineRelease (q : Seq) (mpres : Bool) : Seq :=
  let adopt := q.adopts mpres
  { Seq.powerOn q.active with
    adoptPending := adopt
    mrst := !adopt || q.mrst
    mlpw := !adopt || q.mlpw
    ppres := adopt && q.ppres }

/-- A cage at line-reset release (R10, R50, R77, R81, R140, R162, R178); its journal waits for the comparison of R49. -/
def Cage.lineRelease (c : Cage) : Cage :=
  { c with
    seq := c.seq.lineRelease c.mpres
    timer := PhaseTimer.stopped
    gate := Gate.fresh c.gate.active { sheet := none, pointer := none }
    buffers := Buffers.fresh
    slot := none }

/-- LINE_RESET_RELEASE (R77, R201): the cages are set, and a load starts. -/
def execLineResetRelease (s : State) : Result :=
  if s.lineReset then
    .next { s with
      cages := s.cages.map Cage.lineRelease
      loader := s.loader.begin .lineReset
      lineReset := false }
  else .next s

/-! ## Loads (R201, R203) -/

/-- RESET_PROFILE_LOAD_END (R201): the load of a reset that is in progress ends with this flash. -/
def execResetProfileLoadEnd (flash : List Byte) (s : State) : Result :=
  match s.loader.load with
  | some .powerOn => .next (s.endResetLoad .powerOn flash)
  | some .lineReset => .next (s.endResetLoad .lineReset flash)
  | _ => .next s

/-- RELOAD_LOAD_END (R203): the load of a RELOAD that is in progress ends with this flash. -/
def execReloadLoadEnd (flash : List Byte) (s : State) : Result :=
  match s.loader.load with
  | some .reload => .next (s.endReload flash)
  | _ => .next s

/-! ## Presence and interrupt (R53, R54, R73, R77) -/

/-- PRESENCE_ASSERTED (R54): a cage in EMPTY enters SETTLE; before the load of a reset has ended, and while RESET_n is
asserted, only the level is there (R54, R77, R78). -/
def execPresenceAsserted (k : CageId) (s : State) : Result :=
  let c := s.cage k
  let s1 := s.modCage k fun c => { c with mpres := true }
  if !c.mpres && s.inService && decide (c.seq.state = .empty) then .next (s1.toSettle k) else .next s1

/-- A cage leaves a state other than EMPTY by removal (R73, R74): bounce, gate, lists and work, then EMPTY with its REMOVED
notice, then the restore or the waiting directive (log entry 11). -/
def State.removeFrom (s : State) (k : CageId) (left : CageState) : State :=
  let held := s.channelOf k
  let s1 := if left = .settle then s.count k fun n => { n with bounces := n.bounces + 1 } else s
  let s2 := ((((s1.leaveLists k).modGate k Gate.removed).stopSeqWork k none).idleTimer k).enter k .empty
  let s3 := s2.submit (removedFrame k left)
  match held with
  | some (c, _) => s3.abandonRestore c k
  | none => s3.discardSlot k

/-- REMOVAL (R73, R77): during a line reset only PPRES_n follows; an ADOPT-pending cage goes to EMPTY without notice or
counter. -/
def execRemoval (k : CageId) (s : State) : Result :=
  let c := s.cage k
  let s1 := s.modCage k fun c => { c with mpres := false }
  if !c.mpres then .next s
  else if s.lineReset then .next (s1.modSeq k fun q => { q with ppres := false })
  else if c.seq.adoptPending then .next (s1.enter k .empty)
  else
    match c.seq.state with
    | .empty => .next s1
    | left => .next (s1.removeFrom k left)

/-- MINT_CHANGE (R53): PINT_n follows in LIVE, HELD and FAULTED; while RESET_n is asserted it stays deasserted (R77). -/
def execMintChange (k : CageId) (asserted : Bool) (s : State) : Result :=
  .next (s.modCage k fun c =>
    { c with mint := asserted, seq := { c.seq with pint := !s.lineReset && pintFor c.seq.state asserted } })

end Sys2Proof.Machine
end

