-- ==== Sys2Proof/Machine/CmdRestore.lean ====
section
/-! DEFINITION. The meanings of the Restore Engine's commands: the grant, the ends of a channel's transactions and waits,
and the discard timer (chapters 6 and 8). -/

namespace Sys2Proof.Machine

/-- A channel context at a grant (R111 step 2). -/
def ChannelCtx.granted (k : CageId) : ChannelCtx :=
  { cage := k, stage := .replay, segIndex := 0, recIndex := 0, pass := .write, retriesUsed := 0, totalRetries := 0,
    replayed := 0, work := .idle, path := .completion, retry := .inHand, pointed := false, stuck := .none }

/-- The grant of a channel to a cage that has left the list (R111 steps 2–5). -/
def State.grant (s : State) (c : Fin 4) (k : CageId) : State :=
  let x := ChannelCtx.granted k
  let s1 := (((s.adoptChannel c).setCtx c x).modJournal k fun j => { j with incomplete := true }).idleTimer k
  (s1.enter k .restore).startSegment c x 0

/-- CHANNEL_GRANT (R111): the head of the staged list receives the lowest-numbered free channel. -/
def execChannelGrant (s : State) : Result :=
  match s.staged, s.freeChannel with
  | k :: rest, some c => .next ({ s with staged := rest }.grant c k)
  | _, _ => .next s

/-- RECORD_WRITE_END (R114, R116, R117): the transaction in hand of a located write ends. -/
def execRecordWriteEnd (k : CageId) (answer : Response) (s : State) : Result :=
  match s.channelOf k with
  | none => .next s
  | some (c, x) =>
    match x.work with
    | .write r =>
      match if x.answerable then s.runChannel x [answer] else none with
      | none => .next s
      | some (s1, run) =>
        match run.ended with
        | .more pt => .next (s1.chanMore c x pt true)
        | .held pt => .next (s1.chanHeld c x pt)
        | .busy => .next (s1.chanBusy c x run.progress)
        | .refused t n =>
          let d := t.details r.area (r.start + n)
          .next (s1.segmentFailed c x d.1 d.2)
        | .done _ => .next (s1.recordWritten c x)
    | _ => .next s

/-- POST_DELAY_END (R118): the wait after a marker is over, and the verify pass begins (R119). -/
def execPostDelayEnd (k : CageId) (s : State) : Result :=
  match s.channelOf k with
  | none => .next s
  | some (c, x) =>
    match x.work with
    | .postDelay d =>
      .next ((s.modChannel c fun h => { h with delayRunning := false, delay := max h.delay d }).startVerify c x 0)
    | _ => .next s

/-- VERIFY_READ_END (R116, R119, R120): the transactions of a verify read end. -/
def execVerifyReadEnd (k : CageId) (answers : List Response) (s : State) : Result :=
  match s.channelOf k with
  | none => .next s
  | some (c, x) =>
    match x.work with
    | .verify r =>
      match if x.answerable then s.runChannel x answers else none with
      | none => .next s
      | some (s1, run) =>
        match run.ended with
        | .more pt => .next (s1.chanMore c x pt run.progress)
        | .held pt => .next (s1.chanHeld c x pt)
        | .busy => .next (s1.chanBusy c x run.progress)
        | .refused t n =>
          let d := t.details r.area (r.start + n)
          .next (s1.segmentFailed c x d.1 d.2)
        | .done bytes => .next (s1.verifyCompared c x r bytes)
    | _ => .next s

/-- A fetch ends TAKEN (R126, R127): its bytes go into the slot where that still holds the request the fetch began with. -/
def Buffers.fetched (b : Buffers) (bytes : List Byte) (limit : Nat) : Buffers :=
  match b.slot with
  | .pending loc true => { b with slot := .ready loc bytes, discard := some { elapsed := 0, limit := limit } }
  | _ => b

/-- A fetch ends REFUSED (R126): the slot is FREE where it still holds the request the fetch began with (log entry 12). -/
def Buffers.fetchRefused (b : Buffers) : Buffers :=
  match b.slot with
  | .pending _ true => { b with slot := .free }
  | _ => b

/-- DELAYED_READ_FETCH_END (R116, R126, R127): the transactions of a fetch end, and the boundary ends with it. -/
def execDelayedReadFetchEnd (k : CageId) (answers : List Response) (s : State) : Result :=
  match s.channelOf k with
  | none => .next s
  | some (c, x) =>
    match x.work with
    | .fetch _ =>
      match if x.answerable then s.runChannel x answers else none with
      | none => .next s
      | some (s1, run) =>
        match run.ended with
        | .more pt => .next (s1.chanMore c x pt run.progress)
        | .held pt => .next (s1.chanHeld c x pt)
        | .busy => .next (s1.chanBusy c x run.progress)
        | .refused _ _ =>
          .next (((s1.modBuffers k Buffers.fetchRefused).count k Counters.readDiscard).startSegment c x (x.segIndex + 1))
        | .done bytes =>
          let limit := s1.channels[c].active.readDiscard
          .next ((s1.modBuffers k fun b => b.fetched bytes limit).startSegment c x (x.segIndex + 1))
    | _ => .next s

/-- DEFERRED_WRITE_APPLIED (R116, R129): the transactions of the head entry end; TAKEN or REFUSED, it leaves the queue and is
captured, and the drain goes on. -/
def execDeferredWriteApplied (k : CageId) (answers : List Response) (s : State) : Result :=
  match s.channelOf k with
  | none => .next s
  | some (c, x) =>
    match x.work with
    | .apply e =>
      match if x.answerable then s.runChannel x answers else none with
      | none => .next s
      | some (s1, run) =>
        match run.ended with
        | .more pt => .next (s1.chanMore c x pt run.progress)
        | .held pt => .next (s1.chanHeld c x pt)
        | .busy => .next (s1.chanBusy c x run.progress)
        | .refused _ _ => .next (s1.entryApplied c x e)
        | .done _ => .next (s1.entryApplied c x e)
    | _ => .next s

/-- DISCARD_TIMER_EXPIRY (R93): a READY slot whose discard timer runs becomes FREE, and a read discard counts. -/
def execDiscardTimerExpiry (k : CageId) (s : State) : Result :=
  match (s.cage k).buffers.slot, (s.cage k).buffers.discard with
  | .ready _ _, some _ =>
    .next ((s.modBuffers k fun b => { b with slot := .free, discard := none }).count k Counters.readDiscard)
  | _, _ => .next s

end Sys2Proof.Machine
end

