-- ==== Sys2Proof/Machine/CmdSequencer.lean ====
section
/-! DEFINITION. The meanings of the sequencer's commands: phases, attempts, timeouts, cursor returns, and the admission
of cages. -/

namespace Sys2Proof.Machine

/-! ## Settle (R55) -/

/-- SETTLE_COMPARE_B (R55, R11): MRST_n released, both cursors (0, 0), a reseat counted, PROBE and its boot phase, PRESENT. -/
def execSettleCompareB (k : CageId) (s : State) : Result :=
  if (s.cage k).phase? = some .settle then
    let s1 := s.modCage k fun c =>
      { c with
        seq := { c.seq with
          counters := { c.seq.counters with reseats := c.seq.counters.reseats + 1 }
          bootTime := 0
          powerTime := 0
          carried := none }
        gate := { c.gate with ctrl := { sheet := 0, pointer := 0 }, modc := { sheet := some 0, pointer := some 0 } } }
    let s2 := (s1.enter k .probe).startPhase k .boot
    .next (s2.submit (presentFrame k (s2.cage k).seq.counters.reseats))
  else .next s

/-! ## Attempts (R57, R58, R66, R79, R83–R86) -/

/-- PHASE_COMPARE_A (R83): the first attempt of the phase begins. -/
def execPhaseCompareA (k : CageId) (s : State) : Result :=
  let c := s.cage k
  match c.timer.use, c.seq.due with
  | .phase _ (some a) _, .compareA => .next ((s.reach k a).beginAttempt k)
  | _, _ => .next s

/-- ATTEMPT_DUE (R84): a later attempt begins at its due point; one that falls due beyond compare B is not made (R85). -/
def execAttemptDue (k : CageId) (s : State) : Result :=
  let c := s.cage k
  match c.timer.use, c.seq.due with
  | .phase _ _ b, .at v => if v ≤ b then .next ((s.reach k v).beginAttempt k) else .next s
  | _, _ => .next s

/-- The look at CDA before a sequencer transaction sees the line low (R157): the stuck detection starts on the stall timer,
or waits while that timer is in another use.  A located read held there begins again with its pointer write when it is started
(R158 has it set the pointer; that it does so without a bus clear too is the model's choice, log entry 48). -/
def State.seqHeld (s : State) (k : CageId) : State :=
  s.modCage k fun c =>
    { c with
      seq := { c.seq with started := false }
      gate := if c.gate.stallBusy then c.gate else c.gate.lookAtCda true }

/-- An attempt goes on with a further transaction, which is looked at and started unless the stall timer is in another use
(R157).  A match of its poll has captured its time (R57, R79, R86). -/
def State.attemptMore (s : State) (k : CageId) (m : ModCursor) (a : Attempt) : State :=
  s.modCage k fun c =>
    { c with gate := { c.gate with modc := m },
             seq := { c.seq.capture a.matched a.began with attempt := some a, started := !c.gate.stallBusy } }

/-- An attempt ends "not yet" (R84, R57, R79, R86): the next is due one poll interval later, and what a match captures
stands. -/
def State.attemptNotYet (s : State) (k : CageId) (m : ModCursor) (matched : Bool) : State :=
  s.modCage k fun c =>
    let began := match c.seq.attempt with
      | some a => a.began
      | none => 0
    { c with
      gate := { c.gate with modc := m }
      seq := { c.seq.capture matched began with
        attempt := none, started := false, due := .at (c.timer.elapsed + c.seq.active.poll) } }

/-- A transaction carried to its end after its attempt or return was stopped is accounted (R85, R183, R10).  A cursor return
that waits for it makes its first attempt now, unless the stall timer is in another use (R81, R88, R157). -/
def State.accountCarried (s : State) (k : CageId) (t : Trans) (r : Response) : State :=
  s.modCage k fun c =>
    let waits := c.seq.ret.isSome
    { c with
      gate := { c.gate with modc := c.gate.modc.account t r }
      timer := if waits then PhaseTimer.ofReturn else c.timer
      seq := { c.seq with carried := none, started := if waits then !c.gate.stallBusy else c.seq.started } }

/-- PROBE_ATTEMPT_NOT_YET (R84): the transactions of the attempt in hand are answered, and it ends "not yet" or goes on; with
none in hand, a transaction that is carried to its end is answered (log entry 10). -/
def execProbeAttemptNotYet (k : CageId) (answers : List Response) (s : State) : Result :=
  match s.attemptEnd k answers with
  | some (m, .notYet matched) => .next (s.attemptNotYet k m matched)
  | some (m, .ongoing a) => .next (s.attemptMore k m a)
  | some (m, .held a) => .next ((s.attemptMore k m a).seqHeld k)
  | some (_, .complete _) => .next s
  | none =>
    match (s.cage k).seq.attempt, (s.cage k).seq.carried, answers with
    | none, some t, r :: _ => .next (s.accountCarried k t r)
    | _, _, _ => .next s

/-- What a completed probe step writes (R58, R60–R62, R86): identity, outcome, class, the boot time at the phase's first match,
and the decision, which sets the restore-incomplete flag when it is YES (R47). -/
def State.probed (s : State) (k : CageId) (m : ModCursor) (a : Attempt) (o : IdOutcome) (decision : Bool) : State :=
  s.modCage k fun c =>
    { c with
      gate := { c.gate with modc := m }
      seq := { c.seq with
        lastIdentity := some a.identity
        outcome := o
        powerClass := powerClassOf s.profile a.classByte
        bootTime := if c.seq.bootCaptured then c.seq.bootTime else a.began
        bootCaptured := true
        decision := decision }
      journal := { c.journal with incomplete := c.journal.incomplete || decision } }

/-- PROBE_STEP_COMPLETE (R58, R62): the decision of R62, then QUEUED at once or the cursor return toward HELD. -/
def execProbeStepComplete (k : CageId) (answers : List Response) (s : State) : Result :=
  if s.stateOf k = .probe then
    match s.attemptEnd k answers with
    | some (m, .complete a) =>
      let j := (s.cage k).journal
      let o := compareIdentity s.profile.fields j.identity a.identity
      let d := restoreDecision o j.state j.count s.profile.compatible
      let s1 := s.probed k m a o d.2
      if d.1 then .next (s1.toQueued k) else .next (s1.startReturn k .held)
    | _ => .next s
  else .next s

/-- PROBE_H_MATCH (R66): the power time is captured, the draw released, and the decision takes the cage to STAGED or to the
cursor return toward LIVE. -/
def execProbeHMatch (k : CageId) (answers : List Response) (s : State) : Result :=
  if s.stateOf k = .powerup then
    match s.attemptEnd k answers with
    | some (m, .complete a) =>
      let s1 := (s.modCage k fun c =>
        { c with gate := { c.gate with modc := m }, seq := { c.seq with powerTime := a.began } }).releaseDraw k
      if (s1.cage k).seq.decision then .next (s1.toStaged k) else .next (s1.startReturn k .live)
    | _ => .next s
  else .next s

/-! ## Timeouts (R59, R67, R80, R85) -/

/-- The attempt in hand stops at compare B, the timer at its value (R85): what the attempt has captured is discarded (R86), and
the transaction in progress is carried to its end, which the command gives or a later one brings. -/
def State.stopAttempt (s : State) (k : CageId) (answer : Option Response) : State :=
  let s0 := (s.reach k (s.cage k).compareB).modSeq k Seq.uncapture
  let s1 := s0.stopSeqWork k (s.cage k).seqTrans?
  match (s.cage k).seqTrans?, answer with
  | some t, some r => s1.accountCarried k t r
  | _, _ => s1

/-- Whether a poll of the boot phase has matched (R59, R198). -/
def Seq.hasMatched (q : Seq) : Bool :=
  q.bootCaptured || (match q.attempt with
    | some a => a.matched
    | none => false)

/-- BOOT_TIMEOUT (R59): the fault, the attempt stopped, and the cursor return toward FAULTED. -/
def execBootTimeout (k : CageId) (carried : Option Response) (s : State) : Result :=
  if (s.cage k).phase? = some .boot then
    let s1 := s.logFault .bootTimeout (some k) 1 (s.cage k).seq.hasMatched.toNat
    .next ((s1.stopAttempt k carried).startReturn k .faulted)
  else .next s

/-- POWER_TIMEOUT (R67): the draw released, MLPW reasserted, the fault, and the cursor return toward FAULTED. -/
def execPowerTimeout (k : CageId) (carried : Option Response) (s : State) : Result :=
  if (s.cage k).phase? = some .power then
    let s1 := (s.releaseDraw k).modSeq k fun q => { q with mlpw := true }
    let s2 := s1.logFault .powerTimeout (some k) 2 (s.cage k).compareB
    .next ((s2.stopAttempt k carried).startReturn k .faulted)
  else .next s

/-- Whether ADOPT keeps the module as it stands (R80): both lines released, the flag clear, outcome SAME or NONE. -/
def Seq.keeps (q : Seq) (outcome : IdOutcome) (incomplete : Bool) : Bool :=
  !q.mrst && !q.mlpw && !incomplete && (outcome == .same || outcome == .none)

/-- ADOPT_STEP_COMPLETE (R79, R80): identity, outcome and power time are written, and the module is kept or reset. -/
def execAdoptStepComplete (k : CageId) (answers : List Response) (s : State) : Result :=
  if s.stateOf k = .adopt then
    match s.attemptEnd k answers with
    | some (m, .complete a) =>
      let o := compareIdentity s.profile.fields (s.cage k).journal.identity a.identity
      let s1 := s.modCage k fun c =>
        { c with gate := { c.gate with modc := m },
                 seq := { c.seq with powerTime := a.began, lastIdentity := some a.identity, outcome := o } }
      let c1 := s1.cage k
      if c1.seq.keeps o c1.journal.incomplete then .next (s1.startReturn k .live) else .next (s1.toSettle k)
    | _ => .next s
  else .next s

/-- ADOPT_COMPARE_B (R80): the module is reset, with no fault. -/
def execAdoptCompareB (k : CageId) (carried : Option Response) (s : State) : Result :=
  if (s.cage k).phase? = some .adopt then .next ((s.stopAttempt k carried).toSettle k) else .next s

/-! ## Cursor returns (R16, R17, R63, R88) -/

/-- A cursor return of the sequencer has ended SKIPPED or FAILED: R17, then the entry it led to (R63). -/
def State.returnUnmade (s : State) (k : CageId) (t : ReturnTarget) : State :=
  (s.modGate k fun g => { g with modc := g.modc.unestablished g.ctrl }).enterTarget k t

/-- Changes the cursor return in hand of the sequencer. -/
def State.modReturn (s : State) (k : CageId) (f : SeqReturn → SeqReturn) : State :=
  s.modSeq k fun q => { q with ret := q.ret.map f }

/-- The sequencer's transaction of a cursor return ends (R16): a sheet select TAKEN begins step 2 with its own schedule, BUSY
goes by R88, a NACKed data byte ends FAILED, and step 2 TAKEN ends COMPLETE.  A controller cursor that has moved meanwhile, by a
DEFER write or a served read that outlived RESTORE (R167, R170), is not followed (R16), though R15 has the cursors equal in the
state entered: that R16 is followed there is the model's choice (log entry 46). -/
def State.seqReturnEnd (s : State) (k : CageId) (r : SeqReturn) (answer : Response) : State :=
  let c := s.cage k
  let run := (Access.ret r.goal).run c.gate.modc false false [answer]
  let s1 := s.modGate k fun g => { g with modc := run.modc }
  match run.ended with
  | .more _ =>
    s1.modCage k fun c => { c with timer := { c.timer with elapsed := 0 },
                                   seq := { c.seq with started := !c.gate.stallBusy } }
  | .held _ => s1.seqHeld k
  | .busy =>
    (s1.modReturn k fun r => { r with retry := Retry.afterBusy c.seq.active c.timer.elapsed }).modSeq k
      fun q => { q with started := false }
  | .refused _ _ => s1.returnUnmade k r.target
  | .done _ => s1.enterTarget k r.target

/-- The channel's transaction of a cursor return ends (R16, R130). -/
def State.chanReturnEnd (s : State) (c : Fin 4) (x : ChannelCtx) (goal : Cursor) (answer : Response) : State :=
  match s.runChannel x [answer] with
  | none => s
  | some (s1, run) =>
    match run.ended with
    | .more pt => s1.chanMore c x pt true
    | .held pt => s1.chanHeld c x pt
    | .busy => s1.chanBusy c x false
    | .refused _ _ => s1.compareReturn c x goal false
    | .done _ => s1.compareReturn c x goal true

/-- CURSOR_RETURN_TRANSACTION_END (R16): the transaction in hand of the sequencer's or the channel's cursor return ends; a
carried transaction of the sequencer ends first (log entry 10). -/
def execCursorReturnTransactionEnd (k : CageId) (answer : Response) (s : State) : Result :=
  let c := s.cage k
  match c.seq.ret, c.seq.carried with
  | some _, some t => .next (s.accountCarried k t answer)
  | some r, none =>
    if decide (r.retry = .inHand) && c.seq.started && !c.gate.stuckForSeq then .next (s.seqReturnEnd k r answer)
    else .next s
  | none, _ =>
    match s.channelOf k with
    | some (ch, x) =>
      match x.work with
      | .ret goal => if x.answerable then .next (s.chanReturnEnd ch x goal answer) else .next s
      | _ => .next s
    | none => .next s

/-- BUSY_RETRY_DUE (R88): the next attempt of a BUSY transaction is made. -/
def execBusyRetryDue (k : CageId) (s : State) : Result :=
  match (s.cage k).seq.ret with
  | some r =>
    match r.retry with
    | .due v =>
      .next (((s.reach k v).modReturn k fun r => { r with retry := .inHand }).modCage k fun c =>
        { c with seq := { c.seq with started := !c.gate.stallBusy } })
    | _ => .next s
  | none =>
    match s.channelOf k with
    | some (ch, x) =>
      match x.retry with
      | .due v =>
        .next ((s.setCtx ch { x with retry := .inHand, pointed := false }).modChannel ch fun h =>
          { h with delay := max h.delay v })
      | _ => .next s
    | none => .next s

/-- WRITE_BUSY_LIMIT (R88): the schedule ends with the transaction still BUSY: SKIPPED for a cursor return (R17), SILENT for
other work of a channel (R116). -/
def execWriteBusyLimit (k : CageId) (s : State) : Result :=
  match (s.cage k).seq.ret with
  | some r =>
    match r.retry with
    | .limit => .next ((s.reach k (s.cage k).seq.active.writeBusy).returnUnmade k r.target)
    | _ => .next s
  | none =>
    match s.channelOf k with
    | some (ch, x) =>
      match x.retry with
      | .limit =>
        let s1 := s.modChannel ch fun h => { h with delay := max h.delay h.active.writeBusy }
        .next (s1.chanLimit ch x)
      | _ => .next s
    | none => .next s

/-! ## Power admission (R100, R101, R104) -/

/-- ADMISSION (R100, R101): the unit checks the head of its list. -/
def execAdmission (s : State) : Result := .next s.checkHead

/-- PENDING_BUDGET_ADOPT (R104): a pending budget that may be adopted is, and the head is checked (R100). -/
def execPendingBudgetAdopt (s : State) : Result := .next (if s.power.adoptionHolds then s.unitTests else s)

end Sys2Proof.Machine
end

