-- ==== Sys2Proof/Machine/Dispatch.lean ====
section
/-! DEFINITION. One arm per command, each one direct call of its meaning. -/

namespace Sys2Proof.Machine

/-- The effect of a command on everything but the queue of waiting commands. -/
def exec (i : Instr) (s : State) : Host.Outcome State Fault Refusal :=
  match i with
  | .powerOn => Sys2Proof.Machine.execPowerOn s
  | .lineResetAssert => Sys2Proof.Machine.execLineResetAssert s
  | .lineResetRelease => Sys2Proof.Machine.execLineResetRelease s
  | .resetProfileLoadEnd flash => Sys2Proof.Machine.execResetProfileLoadEnd flash s
  | .reloadLoadEnd flash => Sys2Proof.Machine.execReloadLoadEnd flash s
  | .pendingBudgetAdopt => Sys2Proof.Machine.execPendingBudgetAdopt s
  | .presenceAsserted k => Sys2Proof.Machine.execPresenceAsserted k s
  | .removal k => Sys2Proof.Machine.execRemoval k s
  | .mintChange k asserted => Sys2Proof.Machine.execMintChange k asserted s
  | .settleCompareB k => Sys2Proof.Machine.execSettleCompareB k s
  | .phaseCompareA k => Sys2Proof.Machine.execPhaseCompareA k s
  | .attemptDue k => Sys2Proof.Machine.execAttemptDue k s
  | .probeAttemptNotYet k answers => Sys2Proof.Machine.execProbeAttemptNotYet k answers s
  | .probeStepComplete k answers => Sys2Proof.Machine.execProbeStepComplete k answers s
  | .admission => Sys2Proof.Machine.execAdmission s
  | .probeHMatch k answers => Sys2Proof.Machine.execProbeHMatch k answers s
  | .bootTimeout k carried => Sys2Proof.Machine.execBootTimeout k carried s
  | .powerTimeout k carried => Sys2Proof.Machine.execPowerTimeout k carried s
  | .adoptStepComplete k answers => Sys2Proof.Machine.execAdoptStepComplete k answers s
  | .adoptCompareB k carried => Sys2Proof.Machine.execAdoptCompareB k carried s
  | .cursorReturnTransactionEnd k answer => Sys2Proof.Machine.execCursorReturnTransactionEnd k answer s
  | .busyRetryDue k => Sys2Proof.Machine.execBusyRetryDue k s
  | .writeBusyLimit k => Sys2Proof.Machine.execWriteBusyLimit k s
  | .channelGrant => Sys2Proof.Machine.execChannelGrant s
  | .recordWriteEnd k answer => Sys2Proof.Machine.execRecordWriteEnd k answer s
  | .postDelayEnd k => Sys2Proof.Machine.execPostDelayEnd k s
  | .verifyReadEnd k answers => Sys2Proof.Machine.execVerifyReadEnd k answers s
  | .delayedReadFetchEnd k answers => Sys2Proof.Machine.execDelayedReadFetchEnd k answers s
  | .deferredWriteApplied k answers => Sys2Proof.Machine.execDeferredWriteApplied k answers s
  | .discardTimerExpiry k => Sys2Proof.Machine.execDiscardTimerExpiry k s
  | .upperStart k => Sys2Proof.Machine.execUpperStart k s
  | .addressByte k addr read cdaLow => Sys2Proof.Machine.execAddressByte k addr read cdaLow s
  | .offsetByte k offset cdaLow => Sys2Proof.Machine.execOffsetByte k offset cdaLow s
  | .downstreamAddressAnswer k ack => Sys2Proof.Machine.execDownstreamAddressAnswer k ack s
  | .writeDataByte k b ack => Sys2Proof.Machine.execWriteDataByte k b ack s
  | .deferDataByte k b => Sys2Proof.Machine.execDeferDataByte k b s
  | .readDataByte k b ack => Sys2Proof.Machine.execReadDataByte k b s ack
  | .slotReadByte k ack => Sys2Proof.Machine.execSlotReadByte k s ack
  | .upperStop k => Sys2Proof.Machine.execUpperStop k s
  | .upperRepeatedStart k => Sys2Proof.Machine.execUpperRepeatedStart k s
  | .unknownDirectiveCode k code arg => Sys2Proof.Machine.execUnknownDirectiveCode k code arg s
  | .upstreamStall k inRead waited => Sys2Proof.Machine.execUpstreamStall k inRead s waited
  | .busFreeInterval k free => Sys2Proof.Machine.execBusFreeInterval k s free
  | .cdaReleased k => Sys2Proof.Machine.execCdaReleased k s
  | .stuckDetectionExpiry k => Sys2Proof.Machine.execStuckDetectionExpiry k s
  | .busClearEnd k released => Sys2Proof.Machine.execBusClearEnd k released s
  | .cclHoldExpiry k held released => Sys2Proof.Machine.execCclHoldExpiry k s held released
  | .reseat k arg => Sys2Proof.Machine.execReseat k arg s
  | .resume k arg => Sys2Proof.Machine.execResume k arg s
  | .forget k arg => Sys2Proof.Machine.execForget k arg s
  | .restoreNow k arg => Sys2Proof.Machine.execRestoreNow k arg s
  | .freeze k arg => Sys2Proof.Machine.execFreeze k arg s
  | .thaw k arg => Sys2Proof.Machine.execThaw k arg s
  | .report k arg => Sys2Proof.Machine.execReport k arg s
  | .inject k arg => Sys2Proof.Machine.execInject k arg s
  | .log k arg => Sys2Proof.Machine.execLog k arg s
  | .clearLog k arg => Sys2Proof.Machine.execClearLog k arg s
  | .reload k arg => Sys2Proof.Machine.execReload k arg s
  | .noticeFrameSent => Sys2Proof.Machine.execNoticeFrameSent s

end Sys2Proof.Machine
end

