-- ==== Sys2Proof/Machine/Step.lean ====
section
/-! DEFINITION. One step: the command at the front of the queue, or what the part does by itself while none waits. -/

namespace Sys2Proof.Machine

/-- What the part does while no command waits (log entry 2): a pending budget that may be adopted is adopted (R104), a head
that passes is admitted (R100), a grant that can be made is made (R111), else one millisecond passes. -/
def State.idle (s : State) : Host.Outcome State Fault Refusal :=
  if s.power.adoptionHolds then exec .pendingBudgetAdopt s
  else if s.power.headPasses then exec .admission s
  else if !s.staged.isEmpty && s.freeChannel.isSome then exec .channelGrant s
  else .next s.tick

/-- One step: exec of the command at the front of the queue on the state with the queue's rest; on an empty queue,
`State.idle`. -/
def step (s : State) : Host.Outcome State Fault Refusal :=
  match s.pending with
  | c :: rest => exec c { s with pending := rest }
  | [] => s.idle

/-- `s` with the command that a word spells put at the front of its queue; `s` itself where the word spells none, as every
word does, since no row of the table has bits. -/
def State.withFetchWord (s : State) (nbits w : Nat) : State :=
  match decodeTableWord nbits w with
  | some c => { s with pending := c :: s.pending }
  | none => s

end Sys2Proof.Machine
end

