-- ==== Sys2Proof/Safety.lean ====
section
/-! DEFINITION. What a sound state of the part is: the canonical form of the slot memory, the bounds of the notice port and
the Fault Log, the power rule, and the output levels; and what it is for a command to keep to one cage. -/

namespace Sys2Proof.Machine

/-- The bounds of the notice port (R205): at most 32 frames, a lost count of at most 255. -/
def NoticePort.bounded (n : NoticePort) : Prop := n.queue.length ≤ 32 ∧ n.lost ≤ 255

/-- The bounds of the Fault Log (R196): the later summary starts only after a first fault, and its counts saturate. -/
def FaultLog.bounded (l : FaultLog) : Prop :=
  l.laterCount ≤ 255 ∧ l.corrected ≤ 65535 ∧ (l.first = none → l.later = 0 ∧ l.laterCount = 0)

/-- The power rule (R102): the committed draw is at most the budget, or at most one charge is of a nonzero draw. -/
def Power.sound (p : Power) : Prop :=
  p.committed ≤ p.budget ∨ (p.charges.filter fun c => decide (0 < c.draw)).length ≤ 1

/-- The output levels of a cage (R51, R53, R77): MRST_n and MLPW asserted in EMPTY and SETTLE but for an ADOPT-pending cage,
whose state is still EMPTY; PINT_n asserted only in a relaying state, while MINT_n is. -/
def Cage.outputsSound (c : Cage) : Prop :=
  ((c.seq.state = .empty ∨ c.seq.state = .settle) → c.seq.adoptPending = false → c.seq.mrst = true ∧ c.seq.mlpw = true) ∧
  (c.seq.adoptPending = true → c.seq.state = .empty) ∧
  (c.seq.pint = true → c.seq.state.relays = true ∧ c.mint = true)

/-- The output levels of every cage. -/
def State.outputsSound (s : State) : Prop := ∀ k : CageId, (s.cage k).outputsSound

/-- The cage a command is addressed to; the part-wide commands have none. -/
def Instr.cage? : Instr → Option CageId
  | .powerOn => none
  | .lineResetAssert => none
  | .lineResetRelease => none
  | .resetProfileLoadEnd _ => none
  | .reloadLoadEnd _ => none
  | .pendingBudgetAdopt => none
  | .presenceAsserted k => some k
  | .removal k => some k
  | .mintChange k _ => some k
  | .settleCompareB k => some k
  | .phaseCompareA k => some k
  | .attemptDue k => some k
  | .probeAttemptNotYet k _ => some k
  | .probeStepComplete k _ => some k
  | .admission => none
  | .probeHMatch k _ => some k
  | .bootTimeout k _ => some k
  | .powerTimeout k _ => some k
  | .adoptStepComplete k _ => some k
  | .adoptCompareB k _ => some k
  | .cursorReturnTransactionEnd k _ => some k
  | .busyRetryDue k => some k
  | .writeBusyLimit k => some k
  | .channelGrant => none
  | .recordWriteEnd k _ => some k
  | .postDelayEnd k => some k
  | .verifyReadEnd k _ => some k
  | .delayedReadFetchEnd k _ => some k
  | .deferredWriteApplied k _ => some k
  | .discardTimerExpiry k => some k
  | .upperStart k => some k
  | .addressByte k _ _ _ => some k
  | .offsetByte k _ _ => some k
  | .downstreamAddressAnswer k _ => some k
  | .writeDataByte k _ _ => some k
  | .deferDataByte k _ => some k
  | .readDataByte k _ _ => some k
  | .slotReadByte k _ => some k
  | .upperStop k => some k
  | .upperRepeatedStart k => some k
  | .unknownDirectiveCode k _ _ => some k
  | .upstreamStall k _ _ => some k
  | .busFreeInterval k _ => some k
  | .cdaReleased k => some k
  | .stuckDetectionExpiry k => some k
  | .busClearEnd k _ => some k
  | .cclHoldExpiry k _ _ => some k
  | .reseat k _ => some k
  | .resume k _ => some k
  | .forget k _ => some k
  | .restoreNow k _ => some k
  | .freeze k _ => some k
  | .thaw k _ => some k
  | .report k _ => some k
  | .inject k _ => some k
  | .log k _ => some k
  | .clearLog k _ => some k
  | .reload k _ => some k
  | .noticeFrameSent => none

/-- An admission has made `d` of cage `c` (R65, R101): it is in POWERUP with MLPW released and its power phase started, under
the timing set it may have adopted. -/
def Cage.admitted (c d : Cage) : Prop :=
  d = { c with
    timer := d.timer
    seq := { c.seq with
      state := .powerup, adoptPending := false, mlpw := false, ppres := d.seq.ppres, pint := false, attempt := none,
      due := .compareA, bootCaptured := false, ret := none, started := false, active := d.seq.active,
      adoptionDue := d.seq.adoptionDue } }

/-- The cages other than `k` are as they were, but for those the Power Admission Unit admits: each of these waited on its
list. -/
def othersKept (k : CageId) (s t : State) : Prop :=
  ∀ j : CageId, j ≠ k → t.cage j = s.cage j ∨
    (∃ e ∈ s.power.list, e.cage = j) ∧ (s.cage j).admitted (t.cage j)

/-- The state once cage `k` has left the list it waits on, or its charge, as the exit from its state makes it (R99, R102, R110):
the unit checks a new head at once, and after a release first tests the pending budget. -/
def State.unlisted (s : State) (k : CageId) : State :=
  match (s.cage k).seq.state with
  | .queued =>
    let u := { s with power := { s.power with list := s.power.list.filter fun e => e.cage ≠ k } }
    if s.power.list.head?.any fun e => e.cage = k then u.checkHead else u
  | .powerup => { s with power := { s.power with charges := s.power.charges.filter fun e => e.cage ≠ k } }.unitTests
  | .staged => { s with staged := s.staged.filter fun j => j ≠ k }
  | _ => s

/-- The cages other than `k` are as they were. -/
def othersSame (k : CageId) (s t : State) : Prop := ∀ j : CageId, j ≠ k → t.cage j = s.cage j

/-- Everything outside the cages is as it was. -/
def sharedSame (s t : State) : Prop :=
  t.channels = s.channels ∧ t.staged = s.staged ∧ t.power = s.power ∧ t.store = s.store ∧ t.log = s.log ∧
  t.loader = s.loader ∧ t.notice = s.notice ∧ t.pendingTiming = s.pendingTiming ∧ t.lineReset = s.lineReset ∧
  t.pending = s.pending

/-- Cage `k` has become `c`; the other cages and everything outside the cages are as in `s`. -/
def cageBecomes (k : CageId) (c : Cage) (s t : State) : Prop := t.cage k = c ∧ othersSame k s t ∧ sharedSame s t

/-- Everything outside the cages and the channels is as it was. -/
def restSame (s t : State) : Prop :=
  t.staged = s.staged ∧ t.power = s.power ∧ t.store = s.store ∧ t.log = s.log ∧ t.loader = s.loader ∧
  t.notice = s.notice ∧ t.pendingTiming = s.pendingTiming ∧ t.lineReset = s.lineReset ∧ t.pending = s.pending

/-- Channel `ch` has become `h`; the other channels, the cages and everything else are as in `s`. -/
def channelBecomes (ch : Fin 4) (h : Channel) (s t : State) : Prop :=
  t.channels[ch] = h ∧ (∀ d : Fin 4, d ≠ ch → t.channels[d] = s.channels[d]) ∧ t.cages = s.cages ∧ restSame s t

/-- Cage `k` has become `c` and channel `ch` has become `h`; the other cages and channels and everything else are as in
`s`. -/
def bothBecome (k : CageId) (c : Cage) (ch : Fin 4) (h : Channel) (s t : State) : Prop :=
  t.cage k = c ∧ othersSame k s t ∧ t.channels[ch] = h ∧ (∀ d : Fin 4, d ≠ ch → t.channels[d] = s.channels[d]) ∧
  restSame s t

/-- Segment `n` of a journal is the first from `i` on that holds a record, and its first record is in this slot. -/
def CageRecord.firstFrom (j : CageRecord) (i n slot : Nat) : Prop :=
  i ≤ n ∧ (∀ m : Nat, i ≤ m → m < n → j.segments[m]? = some []) ∧ ∃ rest : List Nat, j.segments[n]? = some (slot :: rest)

/-- A slot whose record and check bits agree (R192: CLEAN). -/
def State.clean (s : State) (slot : Nat) : Prop := (SlotMem.read s.store.slots slot).syndrome = 0

/-- A slot whose syndrome names one flipped bit (R192: CORRECTED): one bit set, for a check bit, or the own syndrome of a data
or field bit. -/
def State.correctable (s : State) (slot : Nat) : Prop := let e := (SlotMem.read s.store.slots slot).syndrome
  bitCount e = 1 ∨ (namedBit? e).isSome = true

/-- A slot with any other nonzero syndrome (R192: UNCORRECTABLE). -/
def State.uncorrectable (s : State) (slot : Nat) : Prop := ¬s.clean slot ∧ ¬s.correctable slot

/-- The fault of a slot of cage `k` whose read is not CLEAN, the cage in state `st` (R193, R194). -/
def State.slotFault (s : State) (kind : FaultKind) (k : CageId) (st : CageState) (slot : Nat) : FaultEntry :=
  { kind := kind, cage := some k, state := some st, uptime := s.log.uptime, detail1 := BitVec.ofNat 16 slot,
    detail2 := BitVec.ofNat 16 (SlotMem.read s.store.slots slot).syndrome.toNat }

/-- What a CORRECTED read of a slot of cage `k` has made of the part (R193): the slot written back with no syndrome, the
corrected-error count one higher, up to 65,535, and the fault logged. -/
def State.corrected (s : State) (k : CageId) (st : CageState) (slot : Nat) : State :=
  { s with
    store := { s.store with
      slots := SlotMem.write s.store.slots slot { SlotMem.read s.store.slots slot with syndrome := 0 } }
    log := { s.log with corrected := min (s.log.corrected + 1) 65535 } }.takeFault (s.slotFault .corrected k st slot)

/-- Some user of the 68 still has its adoption-due flag set (R90). -/
def State.adoptionLeft (s : State) : Prop :=
  (∃ k : CageId, (s.cage k).seq.adoptionDue = true ∨ (s.cage k).gate.adoptionDue = true) ∨
  ∃ c : Fin 4, s.channels[c].adoptionDue = true

/-- A journal that FORGET has emptied (R44). -/
def CageRecord.emptied (j : CageRecord) : CageRecord :=
  { j with state := .opened, closed := [], opened := [], identity := none, incomplete := false }

/-- A cage that RESEAT takes out of RESTORE, in SETTLE with its settle phase begun and its buffers empty and OPEN (R54, R136). -/
def Cage.reseated (c : Cage) : Cage :=
  { c with
    seq := { c.seq with state := .settle, adoptPending := false, decision := false, mrst := true, mlpw := true,
                        ppres := false, pint := false, attempt := none, due := .none, bootCaptured := false, ret := none,
                        started := false }
    timer := { use := .phase .settle none c.seq.active.settle, elapsed := 0 }
    buffers := { queue := [], closed := false, slot := .free, discard := none } }

/-- A channel that has just begun the first attempt of a transaction for the given context. -/
def Channel.begun (h : Channel) (x : ChannelCtx) : Channel := { h with delayRunning := true, delay := 0, ctx := some x }

/-- A channel context with this work in hand, none of its transactions yet answered. -/
def ChannelCtx.working (x : ChannelCtx) (w : ChanWork) : ChannelCtx :=
  { x with work := w, retry := .inHand, pointed := false, stuck := .none }

/-- The gate of cage `k` may take a byte of the transaction in hand `h` at this stage: RESET_n is released, no reset load is in
progress, the gate is not in HUNT, and it does not hold UCL for a check of the sequencer's. -/
def State.takes (s : State) (k : CageId) (h : InHand) (stage : Stage) : Prop :=
  s.lineReset = false ∧ s.resetLoading = false ∧ (s.cage k).gate.relay ≠ .hunt ∧ (s.cage k).gate.inHand = some h ∧
  h.stage = stage ∧ (s.cage k).gate.stuckForSeq = false

/-- A gate that has given this answer on the upper port and waits for the controller with `h` in hand. -/
def Gate.waits (g : Gate) (h : InHand) (a : UpAnswer) : Gate :=
  { g with stallUse := .upstream, stallElapsed := 0, inHand := some h, answer := a }

/-- A gate that has refused the transaction `h` with NACK and stays in HOLDING to its end, its cage port after a stop. -/
def Gate.refuses (g : Gate) (h : InHand) : Gate :=
  { g with relay := .holding, port := .free, stallUse := .upstream, stallElapsed := 0, answer := .nack,
           inHand := some { h with treatment := .refuse, stage := .data } }

/-- A gate that stretches UCL for a relay of `h` with this treatment: its look at CDA has seen the line low or not. -/
def Gate.relays (g : Gate) (h : InHand) (t : Treatment) (cdaLow : Bool) : Gate :=
  { g with stallUse := if cdaLow then .stuck else .stopped, stallElapsed := 0,
           checkSet := if cdaLow then g.active else g.checkSet,
           inHand := some { h with treatment := t, stage := .downAddress } }

/-- A gate with a noted sheet select of `h` applied to both cursors (R152). -/
def Gate.selects (g : Gate) (h : InHand) : Gate :=
  { g with ctrl := { g.ctrl with sheet := h.sheetSelect.getD g.ctrl.sheet }
           modc := { g.modc with sheet := h.sheetSelect.or g.modc.sheet } }

/-- A gate that has let go of its transaction, its stall timer stopped, in this relay state. -/
def Gate.lets (g : Gate) (relay : RelayState) (port : PortState) : Gate :=
  { g with relay := relay, port := port, inHand := none, stallUse := .stopped, stallElapsed := 0 }

/-- A cage whose sequencer looks at CDA and starts a transaction that waited for the stall timer (R157). -/
def Cage.resumed (c : Cage) : Cage :=
  { c with seq := { c.seq with started := c.seq.started ||
      (!c.gate.stallBusy && (c.seq.attempt.isSome || c.seq.ret.isSome)) } }

/-- The phase timer at the start of a sequencer's cursor return (R81, R88): RETURN from 0, or IDLE with its value held while a
transaction is still carried to its end. -/
def Cage.returnTimer (c : Cage) : PhaseTimer :=
  if c.seq.carried.isSome then { c.timer with use := .idle } else { use := .ret, elapsed := 0 }

/-- One cage as power-on leaves it (R10, R48, R50, R81, R140, R162, R178). -/
def Cage.poweredOn (c : Cage) : Prop :=
  (c.seq.state = .empty ∧ c.seq.adoptPending = false ∧ c.seq.decision = false ∧ c.seq.lastIdentity = none ∧
    c.seq.outcome = .none ∧ c.seq.powerClass = 0 ∧ c.seq.bootTime = 0 ∧ c.seq.powerTime = 0 ∧ c.seq.mrst = true ∧
    c.seq.mlpw = true ∧ c.seq.ppres = false ∧ c.seq.pint = false ∧ c.seq.counters = Counters.zero ∧
    c.seq.adoptionDue = false) ∧
  (c.timer.use = .idle ∧ c.timer.elapsed = 0) ∧
  (c.journal.state = .opened ∧ c.journal.segments = [[]] ∧ c.journal.identity = none ∧
    c.journal.incomplete = false ∧ c.journal.mask = none) ∧
  (c.gate.relay = .idle ∧ c.gate.ctrl = { sheet := 0, pointer := 0 } ∧
    c.gate.modc = { sheet := some 0, pointer := some 0 } ∧ c.gate.inHand = none ∧ c.gate.stallUse = .stopped ∧
    c.gate.adoptionDue = false) ∧
  (c.buffers.queue = [] ∧ c.buffers.closed = false ∧ c.buffers.slot = .free ∧ c.buffers.discard = none) ∧
  c.slot = none

/-- The part as power-on leaves it (R48, R90, R95, R109, R110, R196, R205). -/
def State.poweredOn (s : State) : Prop :=
  (∀ k : CageId, (s.cage k).poweredOn) ∧
  (∀ c : Fin 4, s.channels[c].ctx = none ∧ s.channels[c].delayRunning = false) ∧
  s.staged = [] ∧
  (s.power.list = [] ∧ s.power.charges = [] ∧ s.power.pendingBudget = none) ∧
  (∀ i : Nat, (SlotMem.read s.store.slots i).used = false) ∧ s.store.freeCount = 2048 ∧
  (s.log.first = none ∧ s.log.later = 0 ∧ s.log.laterCount = 0 ∧ s.log.corrected = 0 ∧ s.log.uptime = 0) ∧
  (s.notice.queue = [] ∧ s.notice.lost = 0) ∧ s.pendingTiming = none

end Sys2Proof.Machine
end

