-- ==== Sys2Proof/Certificates/Slice0/Obligations.lean ====
section
/-! DEFINITION. The statements for the provers. -/

open Sys2Proof Sys2Proof.Machine

/-! ## One step -/

/-- A step runs the command at the front of the queue on the state with the queue's rest. -/
def Obligations.StepRunsFrontCommand : Prop :=
  ∀ (i : Instr) (rest : List Instr) (s : State), s.pending = i :: rest → step s = exec i { s with pending := rest }

/-- The model's choice (log entry 2): on an empty queue the step adopts a due pending budget, else admits a passing head, else
grants a channel, else lets one millisecond pass. -/
def Obligations.IdleStepOrder : Prop :=
  ∀ s : State, s.pending = [] →
    (s.power.adoptionHolds = true → step s = exec .pendingBudgetAdopt s) ∧
    (s.power.adoptionHolds = false → s.power.headPasses = true → step s = exec .admission s) ∧
    (s.power.adoptionHolds = false → s.power.headPasses = false → s.staged ≠ [] → s.freeChannel.isSome = true →
      step s = exec .channelGrant s) ∧
    (s.power.adoptionHolds = false → s.power.headPasses = false → (s.staged = [] ∨ s.freeChannel = none) →
      step s = .next s.tick)

/-- The model's choice of a clock (log entries 2 and 3): one millisecond adds one to the uptime, wrapping, and, unless RESET_n
is asserted, to every phase timer in use, stall timer in use, running discard timer and running delay timer, up to the
value each stops at; nothing else changes.  The measure of a free bus in HUNT comes with its command (log entry 43). -/
def Obligations.TickCountsTime : Prop :=
  ∀ s : State,
    s.tick.log = { s.log with uptime := s.log.uptime + 1 } ∧
    (s.lineReset = true → s.tick.cages = s.cages ∧ s.tick.channels = s.channels) ∧
    (s.lineReset = false →
      (∀ k : CageId, let c := s.cage k
        s.tick.cage k = { c with
          timer := { c.timer with
            elapsed := if c.timer.use = .idle then c.timer.elapsed else min (c.timer.elapsed + 1) 32767 }
          gate := { c.gate with
            stallElapsed := if c.gate.stallUse = .stopped ∨ c.gate.stallUse = .busFree then c.gate.stallElapsed
              else min (c.gate.stallElapsed + 1) 255 }
          buffers := { c.buffers with
            discard := c.buffers.discard.map fun d => { d with elapsed := min (d.elapsed + 1) d.limit } } }) ∧
      (∀ c : Fin 4, s.tick.channels[c] = { s.channels[c] with
        delay := if s.channels[c].delayRunning then min (s.channels[c].delay + 1) 2550 else s.channels[c].delay })) ∧
    s.tick.staged = s.staged ∧ s.tick.power = s.power ∧ s.tick.store = s.store ∧ s.tick.loader = s.loader ∧
    s.tick.notice = s.notice ∧ s.tick.pendingTiming = s.pendingTiming ∧ s.tick.lineReset = s.lineReset ∧
    s.tick.pending = s.pending

/-! ## Resets and loads -/

/-- The state after reset is the part as power-on leaves it, with the power-on load in progress, the flash selected and sent
its read command, and no command waiting. -/
def Obligations.ResetIsPoweredOn : Prop :=
  State.reset.poweredOn ∧ State.reset.loader.load = some .powerOn ∧
  State.reset.loader.flash = { selected := true, sent := [0x03, 0x00, 0x00, 0x00], clocked := 0 } ∧
  State.reset.pending = []

/-- POWER_ON leaves the part as power-on does, with the levels of its pins as they stand, and starts the power-on load unless
RESET_n is asserted (log entry 1). -/
def Obligations.PowerOnRestarts : Prop :=
  ∀ s : State, ∃ t : State, exec .powerOn s = .next t ∧ t.poweredOn ∧
    (∀ k : CageId, (t.cage k).mpres = (s.cage k).mpres ∧ (t.cage k).mint = (s.cage k).mint) ∧
    t.loader.load = (if s.lineReset then none else some .powerOn) ∧ t.loader.everLoaded = false ∧
    t.loader.flash = (if s.lineReset then { selected := false, sent := [], clocked := 0 }
      else { selected := true, sent := [0x03, 0x00, 0x00, 0x00], clocked := 0 }) ∧
    t.lineReset = s.lineReset ∧ t.pending = s.pending

/-- LINE_RESET_ASSERT holds MRST_n, MLPW and PPRES_n, deasserts PINT_n, abandons every phase, transaction, restore and load,
and loses the lists, the charges, the pending sets and the notices; the journals, the slots, the counters, the cursors and the
Fault Log stay.  While RESET_n is asserted already it changes nothing.  That the flash is deselected at an abandoned load, and
that a check keeps the timing set it began with, are the model's choices (log entries 42 and 44). -/
def Obligations.LineResetAssertAbandons : Prop :=
  ∀ s : State,
    (s.lineReset = true → exec .lineResetAssert s = .next s) ∧
    (s.lineReset = false → ∃ t : State, exec .lineResetAssert s = .next t ∧
      (∀ k : CageId, let c := s.cage k
        t.cage k = { c with
          seq := { c.seq with pint := false, adoptionDue := false, attempt := none, due := .none, ret := none,
                              started := false, carried := none }
          timer := { use := .idle, elapsed := 0 }
          gate := { c.gate with relay := .idle, inHand := none, stallUse := .stopped, stallElapsed := 0,
                                adoptionDue := false, port := .free, clearing := false, checkSet := c.gate.active,
                                answer := .none }
          buffers := { queue := [], closed := false, slot := .free, discard := none }
          slot := none }) ∧
      (∀ c : Fin 4, t.channels[c] = { s.channels[c] with ctx := none, delayRunning := false, delay := 0,
                                                         adoptionDue := false }) ∧
      t.staged = [] ∧ t.power = { s.power with pendingBudget := none, list := [], charges := [] } ∧
      t.store = s.store ∧ t.log = s.log ∧
      t.loader = { s.loader with load := none, flash := { s.loader.flash with selected := false } } ∧
      t.notice = { queue := [], lost := 0 } ∧ t.pendingTiming = none ∧ t.lineReset = true ∧ t.pending = s.pending)

/-- LINE_RESET_RELEASE makes a present module's cage ADOPT-pending with MRST_n, MLPW and PPRES_n held, but for one that stood in
EMPTY (log entry 23), and puts every other cage in EMPTY with both lines asserted; the sequencer records, cursors, buffers
and directive slots take their values of a release, and a load starts. -/
def Obligations.LineResetReleaseAdopts : Prop :=
  ∀ s : State, s.lineReset = true → ∃ t : State, exec .lineResetRelease s = .next t ∧
    (∀ k : CageId, let c := s.cage k
      let d := t.cage k
      (d.mpres = c.mpres ∧ d.mint = c.mint ∧ d.journal = c.journal) ∧
      (d.seq.state = .empty ∧ d.seq.pint = false ∧ d.seq.decision = false ∧ d.seq.lastIdentity = none ∧
        d.seq.outcome = .none ∧ d.seq.powerClass = 0 ∧ d.seq.bootTime = 0 ∧ d.seq.powerTime = 0 ∧
        d.seq.counters = Counters.zero) ∧
      (if c.mpres = true ∧ (c.seq.adoptPending = true ∨ c.seq.state ≠ .empty) then
        d.seq.adoptPending = true ∧ d.seq.mrst = c.seq.mrst ∧ d.seq.mlpw = c.seq.mlpw ∧ d.seq.ppres = c.seq.ppres
      else d.seq.adoptPending = false ∧ d.seq.mrst = true ∧ d.seq.mlpw = true ∧ d.seq.ppres = false) ∧
      d.timer = { use := .idle, elapsed := 0 } ∧
      (d.gate.relay = .idle ∧ d.gate.ctrl = { sheet := 0, pointer := 0 } ∧
        d.gate.modc = { sheet := none, pointer := none } ∧ d.gate.inHand = none ∧ d.gate.stallUse = .stopped) ∧
      d.buffers = { queue := [], closed := false, slot := .free, discard := none } ∧ d.slot = none) ∧
    t.loader = { s.loader with
      load := some .lineReset
      flash := { selected := true, sent := [0x03, 0x00, 0x00, 0x00], clocked := 0 } } ∧
    t.lineReset = false ∧ t.channels = s.channels ∧
    t.staged = s.staged ∧ t.power = s.power ∧ t.store = s.store ∧ t.log = s.log ∧ t.notice = s.notice ∧
    t.pendingTiming = s.pendingTiming ∧ t.pending = s.pending

/-- RESET_PROFILE_LOAD_END installs the profile the load found, gives every user of a timing set the loaded one and the Power
Admission Unit the loaded values, logs PROFILE for a BAD load and queues the PROFILE notice, takes each ADOPT-pending cage to
ADOPT and each EMPTY cage with a module present to SETTLE, and sets PPRES_n by the loaded policy.  The flash is deselected
after the bytes the load reads: five of the header, and after a good header those of the body and the check word.  That the
FAULT notice comes before the PROFILE notice, and that CS_n is released when the reading ends, are the model's choices (log
entries 18 and 42). -/
def Obligations.ResetLoadEndsInService : Prop :=
  ∀ (flash : List Byte) (trig : Trigger) (s : State), (trig = .powerOn ∨ trig = .lineReset) →
    s.loader.load = some trig →
    let f := finding flash
    let p := f.installed flash
    let kept := s.loader.everLoaded && decide (s.store.checkValue = f.check flash)
    ∃ t : State, exec (.resetProfileLoadEnd flash) s = .next t ∧
      t.loader = { profile := p, outcome := f.outcome, check := f.check flash, load := none, everLoaded := true
                   flash := { s.loader.flash with
                     selected := false
                     clocked := if f = .absent ∨ f = .bad 2 then 5 else 5 + bodyLength flash + 2 } } ∧
      t.power = { budget := p.budget, pendingBudget := none, draws := p.draws, factor := p.factor, list := [],
                  charges := [] } ∧
      t.pendingTiming = none ∧
      (∀ c : Fin 4, t.channels[c] = { s.channels[c] with active := p.timing, adoptionDue := false }) ∧
      t.log = (s.logFinding trig f).log ∧
      t.notice = ((s.logFinding trig f).submit (profileFrame trig f.outcome (f.check flash)
        (decide (trig = .lineReset) && kept) (decide (trig = .lineReset) && !kept))).notice ∧
      t.staged = s.staged ∧ t.lineReset = s.lineReset ∧ t.pending = s.pending ∧
      ∀ k : CageId, let c := s.cage k
        let d := t.cage k
        (if c.seq.adoptPending = true then
          d.seq.state = .adopt ∧ d.seq.adoptPending = false ∧ d.seq.mrst = c.seq.mrst ∧ d.seq.mlpw = c.seq.mlpw ∧
          d.timer = { use := .phase .adopt (some p.timing.bootFirst) p.timing.bootLimit, elapsed := 0 }
        else if c.seq.state = .empty ∧ c.mpres = true then
          d.seq.state = .settle ∧ d.seq.mrst = true ∧ d.seq.mlpw = true ∧
          d.timer = { use := .phase .settle none p.timing.settle, elapsed := 0 }
        else d.seq.state = c.seq.state ∧ d.seq.mrst = c.seq.mrst ∧ d.seq.mlpw = c.seq.mlpw ∧ d.timer = c.timer) ∧
        d.seq.ppres = ppresFor p.policy d.seq.state ∧
        (d.seq.active = p.timing ∧ d.seq.adoptionDue = false ∧ d.gate.active = p.timing ∧ d.gate.adoptionDue = false) ∧
        d.gate.ctrl = c.gate.ctrl ∧ d.gate.modc = c.gate.modc ∧ d.mpres = c.mpres ∧ d.mint = c.mint

/-- At the end of a reset load every journal is kept, with its quota loaded again and its mask absent, where a reset load has
ended since power-on and the loaded check value equals the journal check value; else every cage record is fresh, every
slot is free and the journal check value is the loaded one. -/
def Obligations.JournalsKeptOrDiscarded : Prop :=
  ∀ (flash : List Byte) (trig : Trigger) (s : State), (trig = .powerOn ∨ trig = .lineReset) →
    s.loader.load = some trig → SlotMem.wf s.store.slots = true →
    let f := finding flash
    let p := f.installed flash
    ∃ t : State, exec (.resetProfileLoadEnd flash) s = .next t ∧
      (s.loader.everLoaded = true ∧ s.store.checkValue = f.check flash →
        t.store = s.store ∧
        ∀ k : CageId, (t.cage k).journal = { (s.cage k).journal with quota := p.quotas[k], mask := none }) ∧
      (¬(s.loader.everLoaded = true ∧ s.store.checkValue = f.check flash) →
        t.store.checkValue = f.check flash ∧ (∀ i : Nat, (SlotMem.read t.store.slots i).used = false) ∧
        ∀ k : CageId, (t.cage k).journal = { state := .opened, closed := [], opened := [], quota := p.quotas[k],
                                             identity := none, incomplete := false, mask := none })

/-- Whatever bytes the flash holds, every value of the profile made of them lies in its range: the timing set with each first
check at most its limit, the budget, the draws, the factor, the positions in their areas, one to four identity fields of
one to 24 bytes in all, one to 16 rules with INTERCEPT only in BASE, VERIFY only on RECORD and a post-delay only on MARKER,
and the fetch length.  That a field cut to no bytes is dropped is the model's choice (log entry 19). -/
def Obligations.InstalledProfileInRange : Prop :=
  ∀ img : List Byte, let p := profileOf img
    let t := p.timing
    (10 ≤ t.settle ∧ t.settle ≤ 2550) ∧ (50 ≤ t.bootLimit ∧ t.bootLimit ≤ 10000) ∧ t.bootFirst ≤ t.bootLimit ∧
    t.bootFirst ≤ 2550 ∧ (100 ≤ t.powerLimit ∧ t.powerLimit ≤ 30000) ∧ t.powerFirst ≤ t.powerLimit ∧
    t.powerFirst ≤ 2550 ∧ (1 ≤ t.poll ∧ t.poll ≤ 255) ∧ (1 ≤ t.writeBusy ∧ t.writeBusy ≤ 255) ∧
    (10 ≤ t.stall ∧ t.stall ≤ 255) ∧ (1 ≤ t.readDiscard ∧ t.readDiscard ≤ 255) ∧
    (1 ≤ t.stuckDetect ∧ t.stuckDetect ≤ 100) ∧ (1 ≤ t.clearPulses ∧ t.clearPulses ≤ 16) ∧ t.verifyRetries ≤ 3 ∧
    p.budget ≤ 20000 ∧ (16 ≤ p.factor ∧ p.factor ≤ 48) ∧ (∀ c : Fin 8, p.draws[c] ≤ 1000) ∧
    p.classPos.toNat < 128 ∧ p.classShift ≤ 7 ∧ (1 ≤ p.fetchLen ∧ p.fetchLen ≤ 16) ∧
    (∀ q ∈ [p.probeL, p.probeH], q.area = .base ↔ q.position.toNat < 128) ∧
    (1 ≤ p.fields.length ∧ p.fields.length ≤ 4) ∧ (p.fields.map IdField.length).sum ≤ 24 ∧
    (∀ q ∈ p.fields, 1 ≤ q.length ∧ (q.area = .base ↔ q.start.toNat < 128)) ∧
    (1 ≤ p.rules.length ∧ p.rules.length ≤ 16) ∧
    ∀ r ∈ p.rules, (r.action = .intercept → r.area = .base) ∧ (r.verify = true → r.action = .record) ∧
      (0 < r.postDelay → r.action = .marker) ∧ r.postDelay ≤ 255

/-- RELOAD_LOAD_END of a GOOD image hands on the timing set as the pending set of all 68 users, the budget as the pending
budget, and the draw table and factor at once, after which the unit tests the pending budget and its head; it changes no other
field of the profile and no journal.  Any other outcome changes nothing but the load in progress and the flash port, and a BAD
one logs PROFILE.  Each queues its PROFILE notice.  That the FAULT notice of a BAD load comes before it, that the timing set is
placed before the unit's tests, and that CS_n is released when the reading ends, are the model's choices (log entries 17, 18
and 42). -/
def Obligations.ReloadHandsOn : Prop :=
  ∀ (flash : List Byte) (s : State), s.loader.load = some .reload →
    let f := finding flash
    let port : FlashPort := { s.loader.flash with
      selected := false
      clocked := if f = .absent ∨ f = .bad 2 then 5 else 5 + bodyLength flash + 2 }
    ∃ t : State, exec (.reloadLoadEnd flash) s = .next t ∧
      t.staged = s.staged ∧ t.store = s.store ∧ t.lineReset = s.lineReset ∧ t.pending = s.pending ∧
      t.loader.profile = s.loader.profile ∧ (∀ k : CageId, (t.cage k).journal = (s.cage k).journal) ∧
      t.log = (s.logFinding .reload f).log ∧
      t.notice = ((s.logFinding .reload f).submit
        (profileFrame .reload f.outcome t.loader.check false false)).notice ∧
      (f = .good → ∃ v : State, t = { v.unitTests with notice := t.notice } ∧
        v.loader = { s.loader with load := none, outcome := .good, check := .word (checkWord flash), flash := port } ∧
        v.pendingTiming = some (timingOf flash) ∧
        v.power = { s.power with pendingBudget := some (budgetOf flash), draws := drawsOf flash,
                                 factor := factorOf flash } ∧
        (∀ c : Fin 4, v.channels[c] = { s.channels[c] with adoptionDue := true }) ∧
        (∀ k : CageId, let c := s.cage k
          v.cage k = { c with seq := { c.seq with adoptionDue := true }, gate := { c.gate with adoptionDue := true } }) ∧
        v.staged = s.staged ∧ v.store = s.store ∧ v.log = s.log ∧ v.lineReset = s.lineReset ∧ v.pending = s.pending) ∧
      (f ≠ .good →
        t.loader = { s.loader with load := none, flash := port } ∧ t.pendingTiming = s.pendingTiming ∧
        t.power = s.power ∧ t.channels = s.channels ∧ t.cages = s.cages)

/-- PENDING_BUDGET_ADOPT makes the pending budget the budget exactly where the committed draw is at most it or at most one cage
is charged, and then checks the head of the list; else it changes nothing.  The unit's tests after a release or a RELOAD are
this adoption, where it holds, and the head's check in either case. -/
def Obligations.PendingBudgetAdoption : Prop :=
  ∀ s : State,
    (s.power.pendingBudget = none →
      exec .pendingBudgetAdopt s = .next s ∧ exec .admission s = .next s.unitTests) ∧
    ∀ b : Nat, s.power.pendingBudget = some b →
      ((s.power.charges.map Charge.draw).sum ≤ b ∨ s.power.charges.length ≤ 1 →
        exec .pendingBudgetAdopt s = .next s.unitTests ∧
        exec .admission { s with power := { s.power with budget := b, pendingBudget := none } } = .next s.unitTests) ∧
      (b < (s.power.charges.map Charge.draw).sum ∧ 1 < s.power.charges.length →
        exec .pendingBudgetAdopt s = .next s ∧ exec .admission s = .next s.unitTests)

/-! ## The sequencer: presence, phases and attempts -/

/-- PRESENCE_ASSERTED takes an EMPTY cage, while the blocks take events, to SETTLE with MRST_n and MLPW asserted and PPRES_n
deasserted, and its settle phase runs with compare B at the settle time; in every other case only the level changes. -/
def Obligations.PresenceStartsSettle : Prop :=
  ∀ (k : CageId) (s : State),
    let level := { s.cage k with mpres := true }
    ((s.cage k).mpres = false → s.inService = true → (s.cage k).seq.state = .empty →
      let a := s.adoptSeq k
      let c := a.cage k
      ∃ t : State, exec (.presenceAsserted k) s = .next t ∧
        cageBecomes k { c with
          mpres := true
          seq := { c.seq with state := .settle, adoptPending := false, decision := false, mrst := true, mlpw := true,
                              ppres := false, pint := false, attempt := none, due := .none, bootCaptured := false,
                              ret := none, started := false }
          timer := { use := .phase .settle none c.seq.active.settle, elapsed := 0 } } a t) ∧
    ((s.cage k).mpres = true ∨ s.inService = false ∨ (s.cage k).seq.state ≠ .empty →
      ∃ t : State, exec (.presenceAsserted k) s = .next t ∧ cageBecomes k level s t)

/-- SETTLE_COMPARE_B releases MRST_n, sets both cursors to (0, 0), counts a reseat, and takes the cage to PROBE with both times
0 and its boot phase running; the PRESENT notice carries the new count.  The phase's start adopts a pending timing set where
the sequencer's flag is set: it copies the set and clears the flag, and the pending set is absent after the last flag of the
68; with no pending set, or the flag clear, the active set stays.  That a transaction still carried from before the reset ends
unaccounted is the model's reading (log entry 10). -/
def Obligations.SettleEndsInProbe : Prop :=
  (∀ (k : CageId) (s : State), let a := s.adoptSeq k
    (s.pendingTiming = none ∨ (s.cage k).seq.adoptionDue = false → a = s) ∧
    ∀ t : TimingSet, s.pendingTiming = some t → (s.cage k).seq.adoptionDue = true →
      cageBecomes k { s.cage k with seq := { (s.cage k).seq with active := t, adoptionDue := false } }
        { s with pendingTiming := a.pendingTiming } a ∧
      (a.adoptionLeft → a.pendingTiming = some t) ∧ (¬a.adoptionLeft → a.pendingTiming = none)) ∧
  ∀ (k : CageId) (a? : Option Nat) (b : Nat) (s : State), (s.cage k).timer.use = .phase .settle a? b →
    let a := s.adoptSeq k
    let c := a.cage k
    let n := c.seq.counters.reseats + 1
    ∃ t : State, exec (.settleCompareB k) s = .next t ∧
      cageBecomes k { c with
        seq := { c.seq with state := .probe, adoptPending := false, mrst := false, pint := false,
                            ppres := ppresFor s.profile.policy .probe,
                            counters := { c.seq.counters with reseats := n }, bootTime := 0, powerTime := 0,
                            attempt := none, due := .compareA, bootCaptured := false, ret := none, started := false,
                            carried := none }
        timer := { use := .phase .boot (some c.seq.active.bootFirst) c.seq.active.bootLimit, elapsed := 0 }
        gate := { c.gate with ctrl := { sheet := 0, pointer := 0 }, modc := { sheet := some 0, pointer := some 0 } } }
        { a with notice := a.notice.submit (frameOf .present (cageByte k) (BitVec.ofNat 8 (n.toNat / 256))
          (BitVec.ofNat 8 n.toNat) 0 0 0) } t

/-- REMOVAL from a state other than EMPTY and RESTORE puts the cage in EMPTY with MRST_n and MLPW asserted and PPRES_n and
PINT_n deasserted, ends its phase and work, takes it off the list it waits on and its draw out of the charges, upon which the
unit makes its tests, counts a bounce from SETTLE, and queues REMOVED with the state left, then DISCARDED for a directive that
waited; a transaction that was relayed is refused from there on, its noted sheet accounted, and an address or offset byte
whose acknowledge is held is answered with NACK.  The journal and the buffers stay.  That REMOVED comes before DISCARDED, and
that DISCARDED shows the state EMPTY, is the model's choice (log entry 11). -/
def Obligations.RemovalEmptiesCage : Prop :=
  ∀ (k : CageId) (s : State), let c := s.cage k
    c.mpres = true → s.lineReset = false → c.seq.adoptPending = false → c.seq.state ≠ .empty → s.channelOf k = none →
    let left := c.seq.state
    let removed := frameOf .removed (cageByte k) (BitVec.ofNat 8 left.code) 0 0 0 0
    ∃ w t : State, cageBecomes k { c with mpres := false } s w ∧ exec (.removal k) s = .next t ∧
      let v := w.unlisted k
      othersSame k v t ∧
      (let d := t.cage k;
        d.mpres = false ∧ d.mint = c.mint ∧ d.journal = c.journal ∧ d.buffers = c.buffers ∧ d.slot = none ∧
        d.timer = { use := .idle, elapsed := (v.cage k).timer.elapsed } ∧
        (d.seq.state = .empty ∧ d.seq.decision = false ∧ d.seq.mrst = true ∧ d.seq.mlpw = true ∧ d.seq.ppres = false ∧
          d.seq.pint = false ∧ d.seq.attempt = none ∧ d.seq.due = .none ∧ d.seq.ret = none ∧ d.seq.carried = none) ∧
        d.seq.counters = (if left = .settle then { c.seq.counters with bounces := c.seq.counters.bounces + 1 }
          else c.seq.counters) ∧
        (∀ h : InHand, c.gate.inHand = some h →
          if h.treatment = .relay ∨ h.treatment = .relayCapture then
            d.gate.relay = .holding ∧ d.gate.port = .free ∧ d.gate.stallUse = .stopped ∧
            d.gate.answer = (if h.stage = .downAddress ∨ h.stage = .downOffset then .nack else c.gate.answer) ∧
            d.gate.ctrl = { c.gate.ctrl with sheet := h.sheetSelect.getD c.gate.ctrl.sheet } ∧
            d.gate.modc = { c.gate.modc with sheet := h.sheetSelect.or c.gate.modc.sheet } ∧
            d.gate.inHand = some { h with treatment := .refuse, stage := .data, sheetSelect := none, data := [] }
          else d.gate.relay = c.gate.relay ∧ d.gate.answer = c.gate.answer ∧ d.gate.ctrl = c.gate.ctrl ∧
            d.gate.modc = c.gate.modc ∧ d.gate.inHand = c.gate.inHand) ∧
        (c.gate.inHand = none → d.gate.relay = c.gate.relay ∧ d.gate.ctrl = c.gate.ctrl ∧ d.gate.modc = c.gate.modc ∧
          d.gate.inHand = none)) ∧
      t.staged = v.staged ∧ t.power = v.power ∧
      t.notice = (match c.slot with
        | none => s.notice.submit removed
        | some d => (s.notice.submit removed).submit
          (frameOf .directiveRefused (cageByte k) d.code (d.arg.getD 0) (BitVec.ofNat 8 CageState.empty.code)
            RefuseReason.discarded.byte 0)) ∧
      t.channels = s.channels ∧ t.store = s.store ∧ t.log = s.log ∧ t.loader = s.loader ∧
      t.pendingTiming = v.pendingTiming ∧ t.lineReset = s.lineReset ∧ t.pending = s.pending

/-- REMOVAL outside a cage's service: with no module present it changes nothing, while RESET_n is asserted PPRES_n follows
alone, an ADOPT-pending cage enters EMPTY without notice or counter, and in EMPTY only the level changes. -/
def Obligations.RemovalBeforeService : Prop :=
  ∀ (k : CageId) (s : State), let c := s.cage k
    (c.mpres = false → exec (.removal k) s = .next s) ∧
    (c.mpres = true → s.lineReset = true → ∃ t : State, exec (.removal k) s = .next t ∧
      cageBecomes k { c with mpres := false, seq := { c.seq with ppres := false } } s t) ∧
    (c.mpres = true → s.lineReset = false → c.seq.adoptPending = true → ∃ t : State, exec (.removal k) s = .next t ∧
      cageBecomes k { c with
        mpres := false
        seq := { c.seq with state := .empty, adoptPending := false, decision := false, mrst := true, mlpw := true,
                            ppres := false, pint := false } } s t) ∧
    (c.mpres = true → s.lineReset = false → c.seq.adoptPending = false → c.seq.state = .empty →
      ∃ t : State, exec (.removal k) s = .next t ∧ cageBecomes k { c with mpres := false } s t)

/-- MINT_CHANGE shows on PINT_n in LIVE, HELD and FAULTED and on nothing else of the part; in every other state, and while
RESET_n is asserted, PINT_n is deasserted; and at a step into any state PINT_n is asserted exactly where the state is one of the
three and MINT_n stands. -/
def Obligations.InterruptFollowsMint : Prop :=
  ∀ (k : CageId) (s : State), let c := s.cage k
    let follows := fun st : CageState => decide (st = .live ∨ st = .held ∨ st = .faulted)
    (∀ b : Bool, ∃ t : State, exec (.mintChange k b) s = .next t ∧
      cageBecomes k { c with mint := b, seq := { c.seq with pint := !s.lineReset && (follows c.seq.state && b) } } s t) ∧
    ∀ st : CageState, ((s.enter k st).cage k).seq.pint = (follows st && c.mint)

/-- The model's reading of a due point (log entry 3): PHASE_COMPARE_A begins the phase's first attempt at compare A, and
ATTEMPT_DUE a later one at its due point, unless that lies beyond compare B.  The attempt holds the state's reads, the poll
first, and the times captured before it. -/
def Obligations.AttemptsBeginWhenDue : Prop :=
  ∀ (k : CageId) (p : Phase) (a? : Option Nat) (b v : Nat) (s : State), let c := s.cage k
    c.timer.use = .phase p a? b →
    let now := max c.timer.elapsed v
    let begun : Cage := { c with
      timer := { c.timer with elapsed := now }
      seq := { c.seq with
        due := .none
        attempt := some { began := now, todo := attemptReads s.profile c.seq.state, identity := [], classByte := 0,
                          matched := false, pointed := false,
                          kept := { bootTime := c.seq.bootTime, powerTime := c.seq.powerTime,
                                    bootCaptured := c.seq.bootCaptured } }
        started := decide (c.gate.stallUse = .stopped ∨ c.gate.stallUse = .stuck) } }
    (c.seq.due = .compareA → a? = some v →
      ∃ t : State, exec (.phaseCompareA k) s = .next t ∧ cageBecomes k begun s t) ∧
    (c.seq.due = .at v → v ≤ b → ∃ t : State, exec (.attemptDue k) s = .next t ∧ cageBecomes k begun s t) ∧
    (c.seq.due = .at v → b < v → exec (.attemptDue k) s = .next s)

/-- How an attempt's answers end it: a BUSY transaction ends it "not yet"; a poll's byte that differs under the mask ends it
"not yet"; one that matches lets the next read go on; an identity field's bytes are kept in field order; the power-class byte
is kept; and after the last read the attempt is complete.  A read whose look at CDA sees the line low is to begin again with its
pointer write (the model's choice, log entry 48), and a byte that no one drives reads as 0xFF (its choice, log entry 8). -/
def Obligations.AnswersEndAttempt : Prop :=
  ∀ (m : ModCursor) (a : Attempt) (x : AttemptRead) (xs : List AttemptRead) (rs : List Response) (bs : List Byte),
    let got := (bs ++ List.replicate x.length 0xFF).take x.length
    let moved : ModCursor := { m with pointer := m.pointer.map (advanceN · x.length) }
    runAttempt m a [] rs = (m, .complete { a with todo := [] }) ∧
    runAttempt m a (x :: xs) [] = (m, .ongoing { a with todo := x :: xs }) ∧
    runAttempt m a (x :: xs) (.busy :: rs) = (m, .notYet a.matched) ∧
    runAttempt m a (x :: xs) (.held :: rs) = (m, .held { a with todo := x :: xs, pointed := false }) ∧
    (a.pointed = true →
      (∀ mask expected : Byte, x.purpose = .poll mask expected →
        runAttempt m a (x :: xs) (.taken bs :: rs) =
          if got.headD 0xFF &&& mask = expected then runAttempt moved { a with matched := true, pointed := false } xs rs
          else (moved, .notYet false)) ∧
      (x.purpose = .field → runAttempt m a (x :: xs) (.taken bs :: rs) =
        runAttempt moved { a with identity := a.identity ++ got, pointed := false } xs rs) ∧
      (x.purpose = .cls → runAttempt m a (x :: xs) (.taken bs :: rs) =
        runAttempt moved { a with classByte := got.headD 0xFF, pointed := false } xs rs))

/-- PROBE_ATTEMPT_NOT_YET: an attempt that the answers end "not yet" is over, the module cursor accounted, and the next is due
one poll interval later; one that they leave unfinished goes on.  In PROBE the first match of the phase captures the time at
which its attempt began as the boot time, and in ADOPT a match captures it as the power time, whether or not the attempt is
completed. -/
def Obligations.NotYetPacesNextAttempt : Prop :=
  ∀ (k : CageId) (answers : List Response) (at' : Attempt) (m : ModCursor) (matched : Bool) (s : State),
    let c := s.cage k
    c.seq.attempt = some at' → c.seq.started = true → c.gate.stuckForSeq = false → c.gate.stallBusy = false →
    let captured := fun (matched : Bool) (began : Nat) =>
      let first := matched && !c.seq.bootCaptured && decide (c.seq.state = .probe)
      ({ c.seq with
        bootTime := if first then began else c.seq.bootTime
        bootCaptured := c.seq.bootCaptured || first
        powerTime := if matched = true ∧ c.seq.state = .adopt then began else c.seq.powerTime } : Seq)
    let becomes := fun q : Seq => ∃ t : State, exec (.probeAttemptNotYet k answers) s = .next t ∧
      cageBecomes k { c with gate := { c.gate with modc := m }, seq := q } s t
    (runAttempt c.gate.modc at' at'.todo answers = (m, .notYet matched) →
      becomes { captured matched at'.began with
        attempt := none, started := false, due := .at (c.timer.elapsed + c.seq.active.poll) }) ∧
    ∀ a : Attempt, runAttempt c.gate.modc at' at'.todo answers = (m, .ongoing a) →
      becomes { captured a.matched a.began with attempt := some a, started := true }

/-- REMOVAL from RESTORE: the cage enters EMPTY as from any state, its COMPLETE deferred writes are handed to the journal in
queue order and not applied, a FILLING one is left to the gate alone, the slot is FREE, the channel is released, and a
waiting directive is reported DISCARDED.  The order of the notices, and that DISCARDED shows the state EMPTY, are the model's
choice (log entry 11). -/
def Obligations.RemovalAbandonsRestore : Prop :=
  ∀ (k : CageId) (ch : Fin 4) (x : ChannelCtx) (s : State), let c := s.cage k
    c.mpres = true → s.lineReset = false → c.seq.adoptPending = false → c.seq.state = .restore →
    s.channelOf k = some (ch, x) →
    ∃ v t : State, exec (.removal k) s = .next t ∧
      (v.store = s.store ∧ v.log = s.log ∧ v.loader = s.loader ∧
        v.notice = s.notice.submit (frameOf .removed (cageByte k) (BitVec.ofNat 8 CageState.restore.code) 0 0 0 0) ∧
        (v.cage k).journal = c.journal ∧ (v.cage k).seq.lastIdentity = c.seq.lastIdentity ∧
        (v.cage k).seq.shown = .empty) ∧
      let w := v.captureEntries k (c.buffers.queue.filter fun e => !e.filling)
      let d := t.cage k
      (t.store = w.store ∧ t.log = w.log ∧ d.journal = (w.cage k).journal ∧
        t.notice = (match c.slot with
          | none => w.notice
          | some d => w.notice.submit (frameOf .directiveRefused (cageByte k) d.code (d.arg.getD 0)
            (BitVec.ofNat 8 CageState.empty.code) RefuseReason.discarded.byte 0))) ∧
      (d.mpres = false ∧ d.slot = none ∧ d.buffers = { queue := [], closed := false, slot := .free, discard := none } ∧
        d.timer.use = .idle ∧ d.seq.state = .empty ∧ d.seq.decision = false ∧ d.seq.mrst = true ∧ d.seq.mlpw = true ∧
        d.seq.ppres = false ∧ d.seq.pint = false ∧ d.seq.counters = c.seq.counters) ∧
      (∀ (h : InHand) (e : DeferEntry), c.gate.inHand = some h → h.treatment = .defer → h.place = .queued →
        c.buffers.filling? = some e →
        d.gate.inHand = some { h with place := .detached e } ∧ d.gate.ctrl = c.gate.ctrl ∧ d.gate.modc = c.gate.modc) ∧
      othersSame k s t ∧
      t.channels[ch] = { s.channels[ch] with ctx := none, delayRunning := false, delay := 0 } ∧
      (∀ b : Fin 4, b ≠ ch → t.channels[b] = s.channels[b]) ∧ t.staged = s.staged ∧ t.power = s.power ∧
      t.loader = s.loader ∧ t.pendingTiming = s.pendingTiming ∧ t.lineReset = s.lineReset ∧ t.pending = s.pending

/-! ## The sequencer: decisions, timeouts, adoption -/

/-- PROBE_STEP_COMPLETE writes the identity, the outcome, the power class and, at the phase's first match, the boot time, and
decides.  QUEUED: no identity record, or a usable journal with the same module, or with a compatible one where the policy is
on or the journal is empty; else the cursor return toward HELD.  YES: a usable, non-empty journal with the same module, or
with a compatible one where the policy is on.  In QUEUED the cage joins the admission list with its effective draw, and where that
was empty its head is checked at once. -/
def Obligations.ProbeStepDecides : Prop :=
  ∀ (k : CageId) (answers : List Response) (at' done : Attempt) (m : ModCursor) (s : State), let c := s.cage k
    c.seq.state = .probe → c.seq.attempt = some at' → c.seq.started = true → c.gate.stuckForSeq = false →
    c.gate.stallBusy = false → runAttempt c.gate.modc at' at'.todo answers = (m, .complete done) →
    let o := compareIdentity s.profile.fields c.journal.identity done.identity
    let usable := decide (c.journal.state = .opened ∨ c.journal.state = .frozen)
    let some' := decide (0 < c.journal.count)
    let taken := decide (o = .same) || decide (o = .compatible) && s.profile.compatible
    let yes := usable && some' && taken
    let queued := decide (o = .none) || usable && (taken || decide (o = .compatible) && !some')
    let cls : Fin 8 := Fin.ofNat 8 ((done.classByte &&& s.profile.classMask).toNat / 2 ^ s.profile.classShift)
    let probed := fun q : Seq =>
      { q with lastIdentity := some done.identity, outcome := o, powerClass := cls,
               bootTime := if c.seq.bootCaptured then c.seq.bootTime else done.began, bootCaptured := true,
               decision := yes, attempt := none, due := .none }
    let journal := { c.journal with incomplete := c.journal.incomplete || yes }
    (queued = true → ∃ u : State,
      exec (.probeStepComplete k answers) s = .next (if s.power.list = [] then u.checkHead else u) ∧
      cageBecomes k { c with
        gate := { c.gate with modc := m }
        journal := journal
        seq := { probed c.seq with state := .queued, adoptPending := false, pint := false,
                                   ppres := ppresFor s.profile.policy .queued, ret := none, started := false }
        timer := { use := .wait, elapsed := 0 } }
        { s with power := { s.power with list := s.power.list ++
          [{ cage := k, cls := cls, draw := (s.power.draws[cls] * s.power.factor + 15) / 16 }] } } u) ∧
    (queued = false → let a := s.adoptSeq k
      ∃ t : State, exec (.probeStepComplete k answers) s = .next t ∧
      cageBecomes k { a.cage k with
        gate := { (a.cage k).gate with modc := m }
        journal := journal
        seq := { probed (a.cage k).seq with ret := some { target := .held, goal := c.gate.ctrl, retry := .inHand },
                                            started := true }
        timer := c.returnTimer } a t)

/-- PROBE_H_MATCH captures the power time at which the matching attempt began, releases the draw, upon which the unit makes
its tests, and takes the cage to STAGED, at the tail of the staged list, where the decision is YES, else to the cursor return
toward LIVE. -/
def Obligations.PowerupMatchReleasesDraw : Prop :=
  ∀ (k : CageId) (answers : List Response) (at' done : Attempt) (m : ModCursor) (s : State), let c := s.cage k
    c.seq.state = .powerup → c.seq.attempt = some at' → c.seq.started = true → c.gate.stuckForSeq = false →
    c.gate.stallBusy = false → runAttempt c.gate.modc at' at'.todo answers = (m, .complete done) →
    ∃ u : State,
      cageBecomes k { c with gate := { c.gate with modc := m }, seq := { c.seq with powerTime := done.began } }
        { s with power := { s.power with charges := s.power.charges.filter fun e => e.cage ≠ k } } u ∧
      let v := u.unitTests
      ((∀ e ∈ s.power.list, e.cage ≠ k) → v.cage k = u.cage k) ∧
      (c.seq.decision = true → let d := v.cage k
        ∃ t : State, exec (.probeHMatch k answers) s = .next t ∧
        cageBecomes k { d with
          seq := { d.seq with state := .staged, adoptPending := false, pint := false,
                              ppres := ppresFor s.profile.policy .staged, attempt := none, due := .none, ret := none,
                              started := false }
          timer := { use := .wait, elapsed := 0 } } { v with staged := s.staged ++ [k] } t) ∧
      (c.seq.decision = false → let a := v.adoptSeq k
        ∃ t : State, exec (.probeHMatch k answers) s = .next t ∧
        cageBecomes k { a.cage k with
          seq := { (a.cage k).seq with attempt := none, due := .none, started := true,
                                       ret := some { target := .live, goal := c.gate.ctrl, retry := .inHand } }
          timer := (a.cage k).returnTimer } a t)

/-- BOOT_TIMEOUT logs its fault and POWER_TIMEOUT its own, after the draw is released, upon which the unit makes its tests, and
MLPW reasserted; each stops the attempt in hand, whose captured times go, and begins the cursor return toward FAULTED.  Where a
transaction is left to be carried to its end, the timer is IDLE at compare B until that end.  That a match of the attempt
stopped counts in BOOT-TIMEOUT's detail 2 is the model's reading (log entry 24), and so is that the transaction in progress, or
one still carried from before, takes the answer given with the command or is carried to its end by a later one (log entry 10),
and that the timer has reached compare B (log entry 3); that a stuck check or bus clear made for the attempt is dropped is the
model's choice (log entry 35). -/
def Obligations.TimeoutsLeadToFaulted : Prop :=
  ∀ (k : CageId) (p : Phase) (a? : Option Nat) (b : Nat) (carried : Option Response) (s : State), let c := s.cage k
    c.timer.use = .phase p a? b →
    let matched := c.seq.bootCaptured || c.seq.attempt.any Attempt.matched
    let fault := fun (r : Cage) (kind : FaultKind) (d1 d2 : Nat) =>
      ({ kind := kind, cage := some k, state := some r.seq.shown, uptime := s.log.uptime,
         detail1 := BitVec.ofNat 16 d1, detail2 := BitVec.ofNat 16 d2 } : FaultEntry)
    let goes := fun (r d : Cage) (mlpw : Bool) =>
      let g0 := if r.gate.stuckForSeq then r.gate.endStuck else r.gate
      let kept := r.seq.attempt.elim { bootTime := r.seq.bootTime, powerTime := r.seq.powerTime,
                                       bootCaptured := r.seq.bootCaptured } Attempt.kept
      { d with
        gate := { g0 with modc := match r.seqTrans?, carried with
          | some tr, some answer => r.gate.modc.account tr answer
          | _, _ => r.gate.modc }
        seq := { d.seq with
          bootTime := kept.bootTime, powerTime := kept.powerTime, bootCaptured := kept.bootCaptured
          mlpw := mlpw, attempt := none, due := .none, started := !g0.stallBusy
          carried := match carried with
            | some _ => none
            | none => r.seqTrans?
          ret := some { target := .faulted, goal := r.gate.ctrl, retry := .inHand } }
        timer := match r.seqTrans?, carried with
          | some _, none => { use := .idle, elapsed := max r.timer.elapsed r.compareB }
          | _, _ => { use := .ret, elapsed := 0 } }
    (p = .boot → let a := (s.takeFault (fault c .bootTimeout 1 matched.toNat)).adoptSeq k
      ∃ t : State, exec (.bootTimeout k carried) s = .next t ∧
        cageBecomes k (goes c (a.cage k) c.seq.mlpw) a t) ∧
    (p = .power →
      let released := { s with power := { s.power with charges := s.power.charges.filter fun e => e.cage ≠ k } }.unitTests
      let r := released.cage k
      let a := (released.takeFault (fault r .powerTimeout 2 b)).adoptSeq k
      ((∀ e ∈ s.power.list, e.cage ≠ k) → r = c) ∧
      ∃ t : State, exec (.powerTimeout k carried) s = .next t ∧ cageBecomes k (goes r (a.cage k) true) a t)

/-- ADOPT_STEP_COMPLETE writes the identity, the outcome and the power time, and keeps the module as it stands, by the cursor
return toward LIVE, exactly where both lines are released, the restore-incomplete flag is clear and the outcome is SAME or
NONE; else, as at ADOPT_COMPARE_B, where the times that the attempt in hand has captured go, the cage enters SETTLE, with no
fault.  That the transaction in progress at compare B, or one still carried from before, takes the answer given with the
command or is carried to its end by a later one is the model's reading (log entry 10); that a stuck check or bus clear made for
the attempt is dropped is its choice (log entry 35). -/
def Obligations.AdoptionKeepsOrResets : Prop :=
  ∀ (k : CageId) (s : State), let c := s.cage k
    let a := s.adoptSeq k
    let settle := fun (d : Cage) =>
      { d with
        seq := { d.seq with state := .settle, adoptPending := false, decision := false, mrst := true, mlpw := true,
                            ppres := false, pint := false, attempt := none, due := .none, bootCaptured := false,
                            ret := none, started := false }
        timer := { use := .phase .settle none d.seq.active.settle, elapsed := 0 } }
    let dropped := fun (g : Gate) => if g.stuckForSeq then { g with
        clearing := false, stallElapsed := 0, stallUse := if g.inHand.isSome then .upstream else .stopped }
      else g
    let kept := c.seq.attempt.elim { bootTime := c.seq.bootTime, powerTime := c.seq.powerTime,
                                     bootCaptured := c.seq.bootCaptured } Attempt.kept
    let stopped := fun (left : Option Trans) (modc : ModCursor) => settle { a.cage k with
      seq := { (a.cage k).seq with carried := left, bootTime := kept.bootTime, powerTime := kept.powerTime }
      gate := { dropped (a.cage k).gate with modc := modc } }
    (∀ (answers : List Response) (at' done : Attempt) (m : ModCursor),
      c.seq.state = .adopt → c.seq.attempt = some at' → c.seq.started = true → c.gate.stuckForSeq = false →
      c.gate.stallBusy = false → runAttempt c.gate.modc at' at'.todo answers = (m, .complete done) →
      let o := compareIdentity s.profile.fields c.journal.identity done.identity
      let d := a.cage k
      let e := { d with
        gate := { d.gate with modc := m }
        seq := { d.seq with powerTime := done.began, lastIdentity := some done.identity, outcome := o } }
      let keeps := c.seq.mrst = false ∧ c.seq.mlpw = false ∧ c.journal.incomplete = false ∧ (o = .same ∨ o = .none)
      (keeps → ∃ t : State, exec (.adoptStepComplete k answers) s = .next t ∧
        cageBecomes k { e with
          seq := { e.seq with attempt := none, due := .none, started := true,
                              ret := some { target := .live, goal := c.gate.ctrl, retry := .inHand } }
          timer := e.returnTimer } a t) ∧
      (¬keeps → ∃ t : State, exec (.adoptStepComplete k answers) s = .next t ∧ cageBecomes k (settle e) a t)) ∧
    (∀ (a? : Option Nat) (b : Nat), c.timer.use = .phase .adopt a? b → c.seqTrans? = none →
      ∀ carried : Option Response, ∃ t : State, exec (.adoptCompareB k carried) s = .next t ∧
        cageBecomes k (stopped none c.gate.modc) a t) ∧
    (∀ (a? : Option Nat) (b : Nat) (tr : Trans), c.timer.use = .phase .adopt a? b → c.seqTrans? = some tr →
      (∃ t : State, exec (.adoptCompareB k none) s = .next t ∧
        cageBecomes k (stopped (some tr) c.gate.modc) a t) ∧
      ∀ r : Response, ∃ t : State, exec (.adoptCompareB k (some r)) s = .next t ∧
        cageBecomes k (stopped none (c.gate.modc.account tr r)) a t)

/-! ## Cursor returns and the busy schedule -/

/-- CURSOR_RETURN_TRANSACTION_END of a sequencer's return that goes on: a sheet select that is TAKEN begins step 2 on a fresh
schedule; a BUSY answer makes the next attempt due one poll interval later where that is below the write-busy limit, else none
is due; a look that sees CDA low starts the stuck detection under the active timing set, which it keeps (the model's reading,
log entry 44).  A transaction carried over takes the answer first, with this command or with PROBE_ATTEMPT_NOT_YET where no
attempt is in hand; the return's first attempt follows, its RETURN begun at 0.  That such an answer comes with either command
is the model's reading (log entry 10). -/
def Obligations.ReturnTransactionsGoOn : Prop :=
  ∀ (k : CageId) (r : SeqReturn) (s : State), let c := s.cage k
    c.seq.ret = some r →
    (c.seq.carried = none → r.retry = .inHand → c.seq.started = true → c.gate.stuckForSeq = false →
      (∀ bs : List Byte, c.gate.modc.sheet ≠ some r.goal.sheet →
        ∃ t : State, exec (.cursorReturnTransactionEnd k (.taken bs)) s = .next t ∧
        cageBecomes k { c with
          gate := { c.gate with modc := { sheet := some r.goal.sheet, pointer := some 126 } }
          timer := { c.timer with elapsed := 0 }
          seq := { c.seq with started := !c.gate.stallBusy } } s t) ∧
      (let again := c.timer.elapsed + c.seq.active.poll
        let retry := if again < c.seq.active.writeBusy then Retry.due again else Retry.limit
        ∃ t : State, exec (.cursorReturnTransactionEnd k .busy) s = .next t ∧
        cageBecomes k { c with seq := { c.seq with started := false, ret := some { r with retry := retry } } } s t) ∧
      (∃ t : State, exec (.cursorReturnTransactionEnd k .held) s = .next t ∧
        cageBecomes k { c with
          seq := { c.seq with started := false }
          gate := if c.gate.stallBusy then c.gate else { c.gate with
            stallUse := .stuck, stallElapsed := 0, checkSet := c.gate.active } } s t)) ∧
    (∀ (tr : Trans) (answer : Response), c.seq.carried = some tr →
      let begins := fun i : Instr => ∃ t : State, exec i s = .next t ∧
        cageBecomes k { c with
          gate := { c.gate with modc := c.gate.modc.account tr answer }
          timer := { use := .ret, elapsed := 0 }
          seq := { c.seq with carried := none, started := !c.gate.stallBusy } } s t
      begins (.cursorReturnTransactionEnd k answer) ∧
      ∀ rest : List Response, c.seq.attempt = none → begins (.probeAttemptNotYet k (answer :: rest)))

/-- The end of a sequencer's cursor return enters the state it led to whatever the outcome: COMPLETE where the pointer write is
TAKEN, FAILED where the sheet select's byte is refused, SKIPPED at WRITE_BUSY_LIMIT; after the last two the pointer, and a
sheet not known to be the controller's, are UNKNOWN.  HELD and LIVE send their notice; LIVE clears the restore-incomplete flag
and replaces the identity record but where it is present and the outcome is SAME; a directive that waited acts there.  That the
timer then stands at the write-busy limit, where its value was below, is the model's reading (log entry 3), and that a
controller cursor which has moved since the return began is not followed is its choice (log entry 46). -/
def Obligations.ReturnEntersTarget : Prop :=
  ∀ (k : CageId) (r : SeqReturn) (s : State), let c := s.cage k
    c.seq.ret = some r →
    let st := (match r.target with
      | .held => CageState.held
      | .live => CageState.live
      | .faulted => CageState.faulted)
    let times := c.seq.bootTime / 10 % 4096 * 4096 + c.seq.powerTime / 10 % 4096
    let journal := if r.target = .live then
        { c.journal with
          incomplete := false
          identity := if c.seq.outcome = .same ∧ c.journal.identity.isSome then c.journal.identity
            else c.seq.lastIdentity }
      else c.journal
    let enters := fun (m : ModCursor) (elapsed : Nat) (t : State) => ∃ u : State,
      cageBecomes k { c with
        gate := { c.gate with modc := m }
        timer := { use := .idle, elapsed := elapsed }
        journal := journal
        seq := { c.seq with state := st, adoptPending := false, decision := false, ppres := true, pint := c.mint,
                            attempt := none, due := .none, ret := none, started := false } }
        { s with notice := (match r.target with
          | .held => s.notice.submit (frameOf .held (cageByte k) (BitVec.ofNat 8 c.seq.outcome.code)
            (BitVec.ofNat 8 c.journal.state.code) (BitVec.ofNat 8 c.journal.count)
            (if s.profile.compatible then 1 else 0) 0)
          | .live => s.notice.submit (frameOf .live (cageByte k) 0 0 (BitVec.ofNat 8 (times / 65536))
            (BitVec.ofNat 8 (times / 256)) (BitVec.ofNat 8 times))
          | .faulted => s.notice) } u ∧
      t = (match c.slot with
        | none => u
        | some d => (u.setSlot k none).arrive k d)
    let lost : ModCursor :=
      { sheet := if c.gate.modc.sheet = some c.gate.ctrl.sheet then c.gate.modc.sheet else none, pointer := none }
    (c.seq.carried = none → r.retry = .inHand → c.seq.started = true → c.gate.stuckForSeq = false →
      (∀ bs : List Byte, c.gate.modc.sheet = some r.goal.sheet →
        ∃ t : State, exec (.cursorReturnTransactionEnd k (.taken bs)) s = .next t ∧
          enters { c.gate.modc with pointer := some r.goal.pointer } c.timer.elapsed t) ∧
      (∀ n : Nat, c.gate.modc.sheet ≠ some r.goal.sheet →
        ∃ t : State, exec (.cursorReturnTransactionEnd k (.refused n)) s = .next t ∧
          enters lost c.timer.elapsed t)) ∧
    (r.retry = .limit → ∃ t : State, exec (.writeBusyLimit k) s = .next t ∧
      enters lost (max c.timer.elapsed c.seq.active.writeBusy) t)

/-- The COMPLETE end of a channel's cursor return: while the gate holds a DEFER or READ-SLOT transaction the comparison waits;
where the controller cursor has moved another return begins; else the restore ends.  By completion the cage enters LIVE with
a restore counted and the restored LIVE notice; by failure FAULTED with a failure counted; by FORGET LIVE with neither; the
channel is released and the buffers are empty and OPEN.  That the comparison waits also for a refused DEFER write that owes its
sheet select is the model's reading (log entry 13). -/
def Obligations.ChannelReturnEndsRestore : Prop :=
  ∀ (k : CageId) (ch : Fin 4) (x : ChannelCtx) (goal : Cursor) (bs : List Byte) (s : State), let c := s.cage k
    let h := s.channels[ch]
    c.seq.ret = none → s.channelOf k = some (ch, x) → x.work = .ret goal → x.retry = .inHand → x.stuck = .none →
    c.gate.modc.sheet = some goal.sheet →
    let gate := { c.gate with modc := { c.gate.modc with pointer := some goal.pointer } }
    ∃ t : State, exec (.cursorReturnTransactionEnd k (.taken bs)) s = .next t ∧
      (c.gate.movesCursor = true →
        bothBecome k { c with gate := gate } ch
          { h with ctx := some { x with work := .awaitCompare goal true } } s t) ∧
      (c.gate.movesCursor = false → c.gate.ctrl ≠ goal →
        bothBecome k { c with gate := gate } ch
          { h with
            delayRunning := true
            delay := 0
            ctx := some { x with stage := if x.path = .failed then .ending else .ret, work := .ret c.gate.ctrl,
                                 retry := .inHand, pointed := false, stuck := .none } } s t) ∧
      (c.gate.movesCursor = false → c.gate.ctrl = goal →
        let n := c.seq.counters
        let times := c.seq.bootTime / 10 % 4096 * 4096 + c.seq.powerTime / 10 % 4096
        let live := fun a1 : Nat => frameOf .live (cageByte k) (BitVec.ofNat 8 (a1 + x.totalRetries % 128))
          (BitVec.ofNat 8 x.replayed) (BitVec.ofNat 8 (times / 65536)) (BitVec.ofNat 8 (times / 256))
          (BitVec.ofNat 8 times)
        let journal := { c.journal with
          incomplete := false
          identity := if c.seq.outcome = .same ∧ c.journal.identity.isSome then c.journal.identity
            else c.seq.lastIdentity }
        let back := fun (st : CageState) (counters : Counters) (j : CageRecord) => { c with
          gate := gate
          timer := { c.timer with use := .idle }
          buffers := { queue := [], closed := false, slot := .free, discard := none }
          journal := j
          seq := { c.seq with state := st, adoptPending := false, decision := false, ppres := true, pint := c.mint,
                              counters := counters, attempt := none, due := .none, ret := none, started := false } }
        let free := { h with ctx := none, delayRunning := false, delay := 0 }
        ∃ u : State,
          t = (match c.slot with
            | none => u
            | some d => (u.setSlot k none).arrive k d) ∧
          (x.path = .completion →
            bothBecome k (back .live { n with restoresCompleted := n.restoresCompleted + 1 } journal) ch free
              { s with notice := s.notice.submit (live 128) } u) ∧
          (x.path = .forgotten →
            bothBecome k (back .live n journal) ch free { s with notice := s.notice.submit (live 0) } u) ∧
          (x.path = .failed →
            bothBecome k (back .faulted { n with restoreFailures := n.restoreFailures + 1 } c.journal) ch free s u))

/-- BUSY_RETRY_DUE makes the next attempt of the sequencer's return or of the channel's transaction, from its start; and
WRITE_BUSY_LIMIT on a channel's record write logs SILENT with the place aimed at, a sheet select's being its sheet and 125,
closes the deferred write queue and begins the failure path's cursor return.  That the timer then stands at the due value, where
its value was below, is the model's reading (log entry 3). -/
def Obligations.BusyScheduleEnds : Prop :=
  ∀ (k : CageId) (s : State), let c := s.cage k
    (∀ (r : SeqReturn) (v : Nat), c.seq.ret = some r → r.retry = .due v →
      ∃ t : State, exec (.busyRetryDue k) s = .next t ∧
        cageBecomes k { c with
          timer := { c.timer with elapsed := max c.timer.elapsed v }
          seq := { c.seq with ret := some { r with retry := .inHand }, started := !c.gate.stallBusy } } s t) ∧
    (∀ (ch : Fin 4) (x : ChannelCtx), c.seq.ret = none → s.channelOf k = some (ch, x) →
      (∀ v : Nat, x.retry = .due v → ∃ t : State, exec (.busyRetryDue k) s = .next t ∧
        channelBecomes ch { s.channels[ch] with
          ctx := some { x with retry := .inHand, pointed := false }
          delay := max s.channels[ch].delay v } s t) ∧
      (∀ w : Record, x.retry = .limit → x.work = .write w → x.path ≠ .forgotten → c.buffers.queue = [] →
        let place := (match w.area with
          | .base => (255, w.start)
          | .sheet n => if c.gate.modc.sheet = some n then (n.toNat, w.start) else (n.toNat, 125))
        ∃ t : State, exec (.writeBusyLimit k) s = .next t ∧
          bothBecome k { c with buffers := { c.buffers with closed := true } } ch
            { s.channels[ch] with
              delayRunning := true
              delay := 0
              ctx := some { x with stage := .ending, path := .failed, work := .ret c.gate.ctrl, retry := .inHand,
                                   pointed := false, stuck := .none } }
            (s.takeFault { kind := .silent, cage := some k, state := some c.seq.shown, uptime := s.log.uptime,
                           detail1 := BitVec.ofNat 16 place.1, detail2 := BitVec.ofNat 16 place.2 }) t))

/-! ## Power admission -/

/-- ADMISSION goes through the list in its order: the head is admitted where its draw fits under the lower of the budget and
the pending budget, or nothing is committed; it leaves the list, is charged, and its cage enters POWERUP with MLPW released and
its power phase running; then the next head is tried.  It stops at a head that does not fit. -/
def Obligations.AdmissionInListOrder : Prop :=
  ∀ s : State,
    let committed := (s.power.charges.map Charge.draw).sum
    let limit := (match s.power.pendingBudget with
      | none => s.power.budget
      | some b => min s.power.budget b)
    exec .admission s = .next s.checkHead ∧
    (s.power.list = [] → exec .admission s = .next s) ∧
    (∀ (e : AdmissionEntry) (rest : List AdmissionEntry), s.power.list = e :: rest →
      (limit < committed + e.draw → 0 < committed → exec .admission s = .next s) ∧
      (committed + e.draw ≤ limit ∨ committed = 0 →
        let a := { s with power := { s.power with
          list := rest, charges := s.power.charges ++ [(⟨e.cage, e.draw⟩ : Charge)] } }.adoptSeq e.cage
        let c := a.cage e.cage
        ∃ u : State, exec .admission s = exec .admission u ∧
          cageBecomes e.cage { c with
            seq := { c.seq with state := .powerup, adoptPending := false, mlpw := false, pint := false,
                                ppres := ppresFor s.profile.policy .powerup, attempt := none, due := .compareA,
                                bootCaptured := false, ret := none, started := false }
            timer := { use := .phase .power (some c.seq.active.powerFirst) c.seq.active.powerLimit,
                       elapsed := 0 } } a u))

/-! ## The Restore Engine -/

/-- CHANNEL_GRANT gives the head of the staged list the lowest-numbered free channel, which adopts a pending timing set: the
cage enters RESTORE with its restore-incomplete flag set and its timer IDLE, and the write of the oldest record begins.  That
record is read with its check: CORRECTED, its slot is written back, counted and logged, and the record written all the same;
UNCORRECTABLE, it is logged, the journal is DAMAGED, and the restore takes its failure path.  A journal without records goes
through its completion point: to the cursor return, or with RESEAT in the slot to SETTLE, or with FORGET to the cursor return
of its path.  With nothing staged or no channel free nothing happens.  Each data and field bit of a slot has its own syndrome
of three bits or more, an odd number; which one is a free value (log entry 4). -/
def Obligations.GrantTakesHead : Prop :=
  (∀ i j : Nat, i < 112 → j < 112 → (columns.getD i 0 = columns.getD j 0 → i = j) ∧
    bitCount (columns.getD i 0) % 2 = 1 ∧ 3 ≤ bitCount (columns.getD i 0) ∧ namedBit? (columns.getD i 0) = some i) ∧
  ∀ s : State,
    (s.staged = [] ∨ (∀ d : Fin 4, s.channels[d].ctx ≠ none) → exec .channelGrant s = .next s) ∧
    ∀ (k : CageId) (rest : List CageId) (ch : Fin 4), s.staged = k :: rest → s.channels[ch].ctx = none →
      (∀ d : Fin 4, d < ch → s.channels[d].ctx ≠ none) →
      let a := { s with staged := rest }.adoptChannel ch
      let c := s.cage k
      let granted : Cage := { c with
        seq := { c.seq with state := .restore, adoptPending := false, pint := false,
                            ppres := ppresFor s.profile.policy .restore, attempt := none, due := .none, ret := none,
                            started := false }
        timer := { c.timer with use := .idle }
        journal := { c.journal with incomplete := true } }
      let x : ChannelCtx :=
        { cage := k, stage := .replay, segIndex := 0, recIndex := 0, pass := .write, retriesUsed := 0,
          totalRetries := 0, replayed := 0, work := .idle, path := .completion, retry := .inHand, pointed := false,
          stuck := .none }
      let closed := { c.buffers with closed := true }
      let becomes := fun (d : Cage) (h : Channel) (b : State) =>
        ∃ t : State, exec .channelGrant s = .next t ∧ bothBecome k d ch h b t
      (s.pendingTiming = none ∨ s.channels[ch].adoptionDue = false → a = { s with staged := rest }) ∧
      (∀ t : TimingSet, s.pendingTiming = some t → s.channels[ch].adoptionDue = true →
        channelBecomes ch { s.channels[ch] with active := t, adoptionDue := false }
          { s with staged := rest, pendingTiming := a.pendingTiming } a ∧
        (a.adoptionLeft → a.pendingTiming = some t) ∧ (¬a.adoptionLeft → a.pendingTiming = none)) ∧
      (∀ n i : Nat, c.journal.firstFrom 0 n i →
        let writes := a.channels[ch].begun ({ x with segIndex := n }.working (.write (s.recordIn i)))
        (s.clean i → becomes granted writes a) ∧
        (s.correctable i → becomes granted writes (a.corrected k .restore i)) ∧
        (s.uncorrectable i → c.buffers.queue = [] →
          becomes { granted with journal := { granted.journal with state := .damaged }, buffers := closed }
            (a.channels[ch].begun ({ x with segIndex := n, stage := .ending, path := .failed }.working (.ret c.gate.ctrl)))
            (a.takeFault (a.slotFault .uncorrectable k .restore i)))) ∧
      (c.journal.slots = [] → c.buffers.queue = [] →
        (c.slot = none → becomes { granted with buffers := closed }
          (a.channels[ch].begun ({ x with stage := .ret }.working (.ret c.gate.ctrl))) a) ∧
        (∀ arg : Option Byte, c.slot = some { code := 0x01, arg := arg } →
          let b := a.adoptSeq k
          becomes ({ b.cage k with journal := granted.journal, slot := none } : Cage).reseated
            { a.channels[ch] with ctx := none, delayRunning := false, delay := 0 } b) ∧
        (∀ arg : Option Byte, c.slot = some { code := 0x03, arg := arg } →
          becomes { granted with journal := c.journal.emptied, buffers := closed, slot := none }
            (a.channels[ch].begun ({ x with stage := .ret, path := .forgotten }.working (.ret c.gate.ctrl))) a))

/-- RECORD_WRITE_END: a TAKEN sheet select goes on to the record; a TAKEN record moves the module cursor as the write does and
is followed by the next record of its segment, which is read with its check, or by the marker's post-delay; BUSY follows the
busy schedule; a refused byte sends the segment back to its head while retries are left, and else fails the restore with VERIFY
at that byte. -/
def Obligations.RecordWriteGoesOn : Prop :=
  ∀ (k : CageId) (ch : Fin 4) (x : ChannelCtx) (r : Record) (s : State), let c := s.cage k
    s.channelOf k = some (ch, x) → x.work = .write r → x.retry = .inHand → x.stuck = .none →
    let h := s.channels[ch]
    let seg := (c.journal.segments[x.segIndex]?).getD []
    let at' := BitVec.ofNat 8 r.start
    let moved := fun m : ModCursor => { c with gate := { c.gate with modc := m } }
    (∀ (n : Byte) (bs : List Byte), r.area = .sheet n → c.gate.modc.sheet ≠ some n → x.pointed = false →
      ∃ t : State, exec (.recordWriteEnd k (.taken bs)) s = .next t ∧
        bothBecome k (moved { sheet := some n, pointer := some 126 }) ch (h.begun { x with pointed := false }) s t) ∧
    (∃ t : State, exec (.recordWriteEnd k .busy) s = .next t ∧
      channelBecomes ch { h with ctx := some { x with
        pointed := false
        retry := (if h.delay + h.active.poll < h.active.writeBusy then Retry.due (h.delay + h.active.poll)
          else Retry.limit) } } s t) ∧
    ((∀ n : Byte, r.area = .sheet n → c.gate.modc.sheet = some n) →
      (∀ (bs : List Byte) (i : Nat), seg[x.recIndex + 1]? = some i →
        let d := moved (c.gate.modc.wrote at' r.data)
        let y := { x with recIndex := x.recIndex + 1 }
        let writes := h.begun ({ y with stage := .replay, pass := .write }.working (.write (s.recordIn i)))
        let becomes := fun (d : Cage) (h : Channel) (b : State) =>
          ∃ t : State, exec (.recordWriteEnd k (.taken bs)) s = .next t ∧ bothBecome k d ch h b t
        (s.clean i → becomes d writes s) ∧
        (s.correctable i → becomes d writes (s.corrected k c.seq.shown i)) ∧
        (s.uncorrectable i → c.buffers.queue = [] →
          becomes { d with journal := { c.journal with state := .damaged }, buffers := { c.buffers with closed := true } }
            (h.begun ({ y with stage := .ending, path := .failed }.working (.ret c.gate.ctrl)))
            (s.takeFault (s.slotFault .uncorrectable k c.seq.shown i)))) ∧
      (∀ (bs : List Byte) (l : Nat) (u : Rule), seg.length = x.recIndex + 1 → x.segIndex < c.journal.closed.length →
        seg.getLast? = some l → s.profile.rules[(s.recordIn l).rule]? = some u → 0 < u.postDelay →
        ∃ t : State, exec (.recordWriteEnd k (.taken bs)) s = .next t ∧
          bothBecome k (moved (c.gate.modc.wrote at' r.data)) ch
            (h.begun { x with work := .postDelay (u.postDelay * 10), retry := .inHand, stuck := .none }) s t) ∧
      (∀ n : Nat, let took := min n (r.data.length - 1)
        (∀ i : Nat, x.retriesUsed < h.active.verifyRetries → seg.head? = some i → s.clean i →
          ∃ t : State, exec (.recordWriteEnd k (.refused n)) s = .next t ∧
            bothBecome k (moved (c.gate.modc.wrote at' (r.data.take took))) ch
              (h.begun ({ x with stage := .replay, pass := .write, recIndex := 0, retriesUsed := x.retriesUsed + 1,
                                 totalRetries := x.totalRetries + 1 }.working (.write (s.recordIn i)))) s t) ∧
        (h.active.verifyRetries ≤ x.retriesUsed → c.buffers.queue = [] →
          ∃ t : State, exec (.recordWriteEnd k (.refused n)) s = .next t ∧
            bothBecome k { moved (c.gate.modc.wrote at' (r.data.take took)) with
              buffers := { c.buffers with closed := true } } ch
              (h.begun ({ x with stage := .ending, path := ChanPath.failed }.working (.ret c.gate.ctrl)))
              (s.takeFault { kind := .verify, cage := some k, state := some c.seq.shown, uptime := s.log.uptime,
                             detail1 := (match r.area with
                               | .base => 255
                               | .sheet n => BitVec.ofNat 16 n.toNat)
                             detail2 := BitVec.ofNat 16 (r.start + took) }) t)))

/-- The verify pass: POST_DELAY_END begins it with the first PLAIN record whose rule has VERIFY, and VERIFY_READ_END compares
the bytes read with the record: equal goes on to the next such record, or the segment has verified; the first differing byte
sends the segment back to its head while retries are left, and else fails the restore with VERIFY at that byte.  A verified
segment with a later one is followed by a boundary: a PENDING read slot's fetch, or else the next segment; a verified last one
by the completion point, and the cursor return.  At either, RESEAT in the directive slot takes the cage to SETTLE with the
channel released, and FORGET empties the journal and goes to the cursor return of its path.  That the record index stays with
the last record read back is the model's choice (log entry 47), and that a byte that no one drives reads as 0xFF (log entry 8). -/
def Obligations.VerifyPassCompares : Prop :=
  ∀ (k : CageId) (ch : Fin 4) (x : ChannelCtx) (s : State), let c := s.cage k
    s.channelOf k = some (ch, x) →
    let h := s.channels[ch]
    let seg := (c.journal.segments[x.segIndex]?).getD []
    let readBack := fun i : Nat => (s.recordIn i).kind = .plain ∧
      ∃ u : Rule, s.profile.rules[(s.recordIn i).rule]? = some u ∧ u.verify = true
    let next := fun from' n i : Nat => from' ≤ n ∧ seg[n]? = some i ∧ readBack i ∧
      ∀ m j : Nat, from' ≤ m → m < n → seg[m]? = some j → ¬readBack j
    (∀ d n i : Nat, x.work = .postDelay d → next 0 n i → s.clean i →
      ∃ t : State, exec (.postDelayEnd k) s = .next t ∧
        channelBecomes ch (h.begun ({ x with pass := .verify, recIndex := n }.working (.verify (s.recordIn i)))) s t) ∧
    ∀ (r : Record) (bs : List Byte), x.work = .verify r → x.retry = .inHand → x.stuck = .none → x.pointed = true →
      let got := (bs ++ List.replicate r.data.length 0xFF).take r.data.length
      let moved := { c with gate := { c.gate with modc :=
        { c.gate.modc with pointer := c.gate.modc.pointer.map (advanceN · r.data.length) } } }
      let becomes := fun (d : Cage) (h : Channel) (b : State) =>
        ∃ t : State, exec (.verifyReadEnd k [.taken bs]) s = .next t ∧ bothBecome k d ch h b t
      (∀ n i : Nat, got = r.data → next (x.recIndex + 1) n i → s.clean i →
        becomes moved (h.begun ({ x with pass := .verify, recIndex := n }.working (.verify (s.recordIn i)))) s) ∧
      (got = r.data → (∀ m j : Nat, x.recIndex < m → seg[m]? = some j → ¬readBack j) →
        let y := { x with pass := .verify, replayed := x.replayed + seg.length }
        let last := ∀ n : Nat, x.segIndex < n → n < c.journal.segments.length → c.journal.segments[n]? = some []
        let later := fun n i : Nat => c.journal.firstFrom (x.segIndex + 1) n i
        let closed := { c.buffers with closed := true }
        (last → c.slot = none → c.buffers.queue = [] →
          becomes { moved with buffers := closed }
            (h.begun ({ y with stage := if x.path = ChanPath.failed then ChanStage.ending else ChanStage.ret }.working
              (.ret c.gate.ctrl))) s) ∧
        (∀ n i : Nat, later n i → c.slot = none →
          (∀ (loc : Cursor) (f : Bool), c.buffers.slot = .pending loc f →
            becomes { moved with buffers := { c.buffers with slot := .pending loc true } }
              (h.begun ({ y with stage := .boundary }.working (.fetch loc))) s) ∧
          ((∀ (loc : Cursor) (f : Bool), c.buffers.slot ≠ .pending loc f) → s.clean i →
            becomes moved (h.begun ({ y with stage := .replay, pass := .write, segIndex := n, recIndex := 0,
                                             retriesUsed := 0 }.working (.write (s.recordIn i)))) s)) ∧
        (last ∨ (∃ n i : Nat, later n i) → c.buffers.queue = [] →
          (∀ arg : Option Byte, c.slot = some { code := 0x01, arg := arg } →
            let b := s.adoptSeq k
            becomes ({ b.cage k with gate := moved.gate, slot := none } : Cage).reseated
              { h with ctx := none, delayRunning := false, delay := 0 } b) ∧
          (∀ arg : Option Byte, c.slot = some { code := 0x03, arg := arg } →
            becomes { moved with journal := c.journal.emptied, buffers := closed, slot := none }
              (h.begun ({ y with stage := .ret, path := .forgotten }.working (.ret c.gate.ctrl)))
              { s with store := { s.store with slots := c.journal.slots.foldl SlotMem.free s.store.slots } }))) ∧
      ∀ i : Nat, i < r.data.length → (∀ j : Nat, j < i → got[j]? = r.data[j]?) → got[i]? ≠ r.data[i]? →
        (∀ l : Nat, x.retriesUsed < h.active.verifyRetries → seg.head? = some l → s.clean l →
          ∃ t : State, exec (.verifyReadEnd k [.taken bs]) s = .next t ∧
            bothBecome k moved ch
              (h.begun ({ x with stage := .replay, pass := .write, recIndex := 0, retriesUsed := x.retriesUsed + 1,
                                 totalRetries := x.totalRetries + 1 }.working (.write (s.recordIn l)))) s t) ∧
        (h.active.verifyRetries ≤ x.retriesUsed → c.buffers.queue = [] →
          ∃ t : State, exec (.verifyReadEnd k [.taken bs]) s = .next t ∧
            bothBecome k { moved with buffers := { c.buffers with closed := true } } ch
              (h.begun ({ x with stage := .ending, path := ChanPath.failed }.working (.ret c.gate.ctrl)))
              (s.takeFault { kind := .verify, cage := some k, state := some c.seq.shown, uptime := s.log.uptime,
                             detail1 := (match r.area with
                               | .base => 255
                               | .sheet n => BitVec.ofNat 16 n.toNat)
                             detail2 := BitVec.ofNat 16 (r.start + i) }) t)

/-- DELAYED_READ_FETCH_END with the bytes TAKEN makes the slot READY with them and starts the discard timer, where the slot
still holds the request the fetch began with; a newer request stays PENDING; a refused sheet select frees the slot and
counts a read discard; the replay goes on with the next segment.  DISCARD_TIMER_EXPIRY frees a READY slot and counts one.  A
byte that no one drives reads as 0xFF (the model's choice, log entry 8). -/
def Obligations.FetchFillsSlot : Prop :=
  ∀ (k : CageId) (s : State), let c := s.cage k
    let discarded := { c.seq with counters :=
      { c.seq.counters with readDiscards := c.seq.counters.readDiscards + 1 } }
    (∀ (ch : Fin 4) (x : ChannelCtx) (loc : Cursor) (n i : Nat), s.channelOf k = some (ch, x) → x.work = .fetch loc →
      x.retry = .inHand → x.stuck = .none → c.journal.firstFrom (x.segIndex + 1) n i → s.clean i →
      let h := s.channels[ch]
      let goesOn := h.begun ({ x with stage := .replay, pass := .write, segIndex := n, recIndex := 0,
                                      retriesUsed := 0 }.working (.write (s.recordIn i)))
      (∀ bs : List Byte, x.pointed = true →
        let got := (bs ++ List.replicate s.profile.fetchLen 0xFF).take s.profile.fetchLen
        let modc := { c.gate.modc with pointer := c.gate.modc.pointer.map (advanceN · s.profile.fetchLen) }
        ∃ t : State, exec (.delayedReadFetchEnd k [.taken bs]) s = .next t ∧
          (∀ l : Cursor, c.buffers.slot = .pending l true →
            bothBecome k { c with
              gate := { c.gate with modc := modc }
              buffers := { c.buffers with slot := .ready l got,
                                          discard := some { elapsed := 0, limit := h.active.readDiscard } } }
              ch goesOn s t) ∧
          (∀ l : Cursor, c.buffers.slot = .pending l false →
            bothBecome k { c with gate := { c.gate with modc := modc } } ch goesOn s t)) ∧
      (∀ (b : Nat) (l : Cursor), x.pointed = false → c.gate.modc.sheet ≠ some loc.sheet →
        c.buffers.slot = .pending l true →
        ∃ t : State, exec (.delayedReadFetchEnd k [.refused b]) s = .next t ∧
          bothBecome k { c with
            gate := { c.gate with modc := { c.gate.modc with pointer := some 125 } }
            buffers := { c.buffers with slot := .free }
            seq := discarded } ch goesOn s t)) ∧
    (∀ (l : Cursor) (data : List Byte) (d : Discard), c.buffers.slot = .ready l data → c.buffers.discard = some d →
      ∃ t : State, exec (.discardTimerExpiry k) s = .next t ∧
        cageBecomes k { c with buffers := { c.buffers with slot := .free, discard := none }, seq := discarded } s t)

/-- DEFERRED_WRITE_APPLIED with the write TAKEN, or refused at a byte: the module cursor moves by the bytes taken, the entry
leaves the head of the queue and is handed to the journal whole, and the drain goes on; an emptied queue is closed and the
cursor return begins, and a COMPLETE head is applied next. -/
def Obligations.DeferredWriteLeavesCaptured : Prop :=
  ∀ (k : CageId) (ch : Fin 4) (x : ChannelCtx) (e : DeferEntry) (answer : Response) (s : State), let c := s.cage k
    s.channelOf k = some (ch, x) → x.work = .apply e → x.retry = .inHand → x.stuck = .none →
    c.gate.modc.sheet = some e.sheet →
    ∀ took : List Byte,
      ((∃ bs : List Byte, answer = .taken bs) ∧ took = e.data ∨
        ∃ n : Nat, answer = .refused n ∧ took = e.data.take (min n (e.data.length - 1))) →
    ∃ u t : State, exec (.deferredWriteApplied k [answer]) s = .next t ∧
      cageBecomes k { c with
        gate := { c.gate with modc := c.gate.modc.wrote e.offset took }
        buffers := { c.buffers with queue := c.buffers.queue.drop 1 } } s u ∧
      let w := u.capture k e.sheet e.offset e.data
      t = w.drain ch x ∧
      (c.buffers.queue.drop 1 = [] →
        bothBecome k { w.cage k with buffers := { c.buffers with queue := [], closed := true } } ch
          (w.channels[ch].begun ({ x with stage := if x.path = ChanPath.failed then ChanStage.ending else ChanStage.ret }.working
            (.ret c.gate.ctrl))) w t) ∧
      (∀ (e' : DeferEntry) (rest : List DeferEntry), c.buffers.queue.drop 1 = e' :: rest → e'.filling = false →
        channelBecomes ch (w.channels[ch].begun ({ x with stage := .drain }.working (.apply e'))) w t)

/-! ## The Pass-Through Gate -/

/-- UPPER_START in IDLE: the gate adopts a pending timing set, copying it and clearing its flag, the set absent after the last
flag of the 68; it latches the controller cursor's sheet and opens a transaction in HOLDING, its stall timer running unless a
check of the sequencer's runs on it; while a reset load is in progress the transaction is refused from the start and the timer
does not run.  In HOLDING and RELAYING it changes nothing, and nothing while RESET_n is asserted.  That a start in HUNT begins
the bus-free measure again is the model's reading (log entry 27). -/
def Obligations.StartOpensTransaction : Prop :=
  ∀ (k : CageId) (s : State),
    (let a := s.adoptGate k;
      (s.pendingTiming = none ∨ (s.cage k).gate.adoptionDue = false → a = s) ∧
      ∀ t : TimingSet, s.pendingTiming = some t → (s.cage k).gate.adoptionDue = true →
        cageBecomes k { s.cage k with gate := { (s.cage k).gate with active := t, adoptionDue := false } }
          { s with pendingTiming := a.pendingTiming } a ∧
        (a.adoptionLeft → a.pendingTiming = some t) ∧ (¬a.adoptionLeft → a.pendingTiming = none)) ∧
    (s.lineReset = true → exec (.upperStart k) s = .next s) ∧
    (s.lineReset = false → (s.cage k).gate.relay = .hunt → ∃ t : State, exec (.upperStart k) s = .next t ∧
      cageBecomes k { s.cage k with gate := { (s.cage k).gate with answer := .none, stallElapsed := 0 } } s t) ∧
    (s.lineReset = false → s.resetLoading = false → (s.cage k).gate.relay = .holding ∨ (s.cage k).gate.relay = .relaying →
      exec (.upperStart k) s = .next s) ∧
    (s.lineReset = false → (s.cage k).gate.relay = .idle →
      let a := s.adoptGate k
      let c := a.cage k
      let check := c.gate.stuckForSeq
      ∃ t : State, exec (.upperStart k) s = .next t ∧
        cageBecomes k { c with gate := { c.gate with
          relay := .holding
          answer := .none
          stallUse := if s.resetLoading then .stopped else if check then c.gate.stallUse else .upstream
          stallElapsed := if s.resetLoading then 0 else if check then c.gate.stallElapsed else 0
          inHand := some { addressByte := none, toModule := false, stage := .address, refSheet := c.gate.ctrl.sheet,
                           treatment := if s.resetLoading then .refuse else .undecided, offset := none, data := [],
                           sheetSelect := none, upperBytes := 0, nacked := false, place := .closed,
                           served := false } } } a t)

/-- ADDRESS_BYTE: a write to the module is taken to its offset; a read of it, and any transaction to another address, is
relayed in LIVE, HELD and FAULTED; in RESTORE a read of the module is served from a READY slot of its place, whose discard
timer stops, and else answered with NACK, its place becoming the slot's request and an abandoned one counted; everything else is
refused.  That a read so NACKed keeps treatment READ-SLOT is the model's choice (log entry 51), and that a check of CDA keeps
the timing set it begins with its reading (log entry 44). -/
def Obligations.AddressByteDecides : Prop :=
  ∀ (k : CageId) (addr : BitVec 7) (read cdaLow : Bool) (h : InHand) (s : State), let c := s.cage k
    s.takes k h .address →
    let toModule := decide (addr = s.profile.moduleAddr)
    let h1 := { h with addressByte := some (BitVec.ofNat 8 (addr.toNat * 2 + read.toNat)), toModule := toModule }
    let relaying := c.seq.state = .live ∨ c.seq.state = .held ∨ c.seq.state = .faulted
    let gateIs := fun (g : Gate) => ∃ t : State, exec (.addressByte k addr read cdaLow) s = .next t ∧
      cageBecomes k { c with gate := g } s t
    (h.treatment = .refuse → gateIs (c.gate.waits { h1 with stage := .data } .nack)) ∧
    (h.treatment ≠ .refuse → toModule = true → read = false → gateIs (c.gate.waits { h1 with stage := .offset } .ack)) ∧
    (h.treatment ≠ .refuse → toModule = false ∨ read = true → relaying → gateIs (c.gate.relays h1 .relay cdaLow)) ∧
    (h.treatment ≠ .refuse → toModule = false ∨ read = true → ¬relaying → toModule = false ∨ c.seq.state ≠ .restore →
      gateIs (c.gate.refuses h1)) ∧
    (h.treatment ≠ .refuse → toModule = true → read = true → c.seq.state = .restore →
      let loc := c.gate.ctrl
      let held := fun (served : Bool) (a : UpAnswer) =>
        { c.gate with port := .free }.waits { h1 with treatment := .readSlot, stage := .data, served := served } a
      let becomes := fun (g : Gate) (b : Buffers) (discards : BitVec 16) =>
        ∃ t : State, exec (.addressByte k addr read cdaLow) s = .next t ∧
          cageBecomes k { c with gate := g, buffers := b, seq := { c.seq with counters :=
            { c.seq.counters with readDiscards := c.seq.counters.readDiscards + discards } } } s t
      (∀ data : List Byte, c.buffers.slot = .ready loc data →
        becomes (held true .ack) { c.buffers with discard := none } 0) ∧
      (∀ (l : Cursor) (data : List Byte), l ≠ loc → c.buffers.slot = .ready l data →
        becomes (held false .nack) { c.buffers with slot := .pending loc false, discard := none } 1) ∧
      (∀ f : Bool, c.buffers.slot = .pending loc f → becomes (held false .nack) c.buffers 0) ∧
      (∀ (l : Cursor) (f : Bool), l ≠ loc → c.buffers.slot = .pending l f →
        becomes (held false .nack) { c.buffers with slot := .pending loc false } 1) ∧
      (c.buffers.slot = .free → becomes (held false .nack) { c.buffers with slot := .pending loc false } 0))

/-- OFFSET_BYTE: a BASE position whose first matching rule is INTERCEPT is taken by the gate; else LIVE relays with capture,
HELD and FAULTED relay, RESTORE defers — a new FILLING entry at the tail, a refusal counted as busy where four wait, no entry
where the queue is CLOSED — and every other state refuses.  That a check of CDA keeps the timing set it begins with is the
model's reading (log entry 44). -/
def Obligations.OffsetByteDecides : Prop :=
  ∀ (k : CageId) (offset : Byte) (cdaLow : Bool) (h : InHand) (s : State), let c := s.cage k
    s.takes k h .offset →
    let h1 := { h with offset := some offset }
    let isIntercept := offset.toNat < 128 ∧
      ∃ (i : Nat) (r : Rule), ruleOf s.profile.rules .base offset = some (i, r) ∧ r.action = .intercept
    let becomes := fun (d : Cage) => ∃ t : State, exec (.offsetByte k offset cdaLow) s = .next t ∧ cageBecomes k d s t
    let atGate := { c.gate with port := .free }
    (isIntercept → becomes { c with gate := atGate.waits { h1 with treatment := .intercept, stage := .data } .ack }) ∧
    (¬isIntercept →
      (c.seq.state = .live → becomes { c with gate := c.gate.relays h1 .relayCapture cdaLow }) ∧
      (c.seq.state = .held ∨ c.seq.state = .faulted → becomes { c with gate := c.gate.relays h1 .relay cdaLow }) ∧
      (c.seq.state = .restore → c.buffers.closed = true →
        becomes { c with gate := atGate.waits { h1 with treatment := .defer, stage := .data, place := .closed } .ack }) ∧
      (c.seq.state = .restore → c.buffers.closed = false → c.buffers.queue.length < 4 →
        becomes { c with
          gate := atGate.waits { h1 with treatment := .defer, stage := .data, place := .queued } .ack
          buffers := { c.buffers with queue := c.buffers.queue ++
            [{ sheet := h.refSheet, offset := offset, data := [], filling := true }] } }) ∧
      (c.seq.state = .restore → c.buffers.closed = false → 4 ≤ c.buffers.queue.length →
        becomes { c with
          gate := c.gate.refuses h1
          seq := { c.seq with counters :=
            { c.seq.counters with busyRefusals := c.seq.counters.busyRefusals + 1 } } }) ∧
      (c.seq.state ≠ .live → c.seq.state ≠ .held → c.seq.state ≠ .faulted → c.seq.state ≠ .restore →
        becomes { c with gate := c.gate.refuses h1 }))

/-- DOWNSTREAM_ADDRESS_ANSWER: the cage port's answer to a relayed address or offset is passed up.  An ACKed address of a write
to the module goes on to the offset; an ACKed offset sets both pointers; a NACK refuses the rest and moves no cursor; at
another address every later byte is passed through whatever the answer (the model's choice, log entry 15). -/
def Obligations.CagePortAnswerPassedUp : Prop :=
  ∀ (k : CageId) (h : InHand) (ack : Bool) (s : State), let c := s.cage k
    c.gate.inHand = some h → c.gate.stallUse ≠ .stuck → c.gate.clearing = false →
    let becomes := fun (g : Gate) => ∃ t : State, exec (.downstreamAddressAnswer k ack) s = .next t ∧
      cageBecomes k { c with gate := g } s t
    let busy := { c.gate with port := .busy }
    (h.stage = .downAddress → h.offset = none → ack = true ∨ h.toModule = false →
      becomes { busy.waits { h with stage := .data } (if ack then .ack else .nack) with relay := .relaying }) ∧
    (h.stage = .downAddress → h.offset = none → ack = false → h.toModule = true → becomes (c.gate.refuses h)) ∧
    (∀ o : Byte, h.stage = .downAddress → h.offset = some o →
      (ack = true → becomes { busy with
        inHand := some { h with stage := .downOffset }, stallUse := .stopped, stallElapsed := 0 }) ∧
      (ack = false → becomes (c.gate.refuses h))) ∧
    (∀ o : Byte, h.stage = .downOffset → h.offset = some o →
      (ack = true → becomes { { c.gate with
          ctrl := { c.gate.ctrl with pointer := o }
          modc := { c.gate.modc with pointer := some o } }.waits { h with stage := .data } .ack with
        relay := .relaying }) ∧
      (ack = false → becomes (c.gate.refuses h)))

/-- WRITE_DATA_BYTE: an intercepted write's byte is ACKed and the first two kept; a refused write's byte is NACKed; at another
address the cage port's answer is passed up; a relayed byte the module takes moves both pointers, is noted as a sheet select at
position 125, and is kept for the capture, and one it refuses is NACKed; after a refused byte, and beyond 256 captured bytes,
the gate answers NACK itself, stops the cage port and applies a noted sheet select.  In HUNT every byte from the controller
goes unacknowledged; that it starts the bus-free measure again is the model's reading (log entry 27). -/
def Obligations.WriteByteByTreatment : Prop :=
  (∀ (k : CageId) (i : Instr) (s : State), let c := s.cage k
    s.lineReset = false → c.gate.relay = .hunt →
    (∃ (a : BitVec 7) (b : Byte) (x y : Bool), i = .addressByte k a x y ∨ i = .offsetByte k b x ∨
      i = .writeDataByte k b x ∨ i = .deferDataByte k b) →
    ∃ t : State, exec i s = .next t ∧
      cageBecomes k { c with gate := { c.gate with answer := .nack, stallElapsed := 0 } } s t) ∧
  ∀ (k : CageId) (b : Byte) (ack : Bool) (h : InHand) (s : State), let c := s.cage k
    s.takes k h .data → h.reads = false →
    let n := { h with upperBytes := min (h.upperBytes + 1) 255 }
    let becomes := fun (g : Gate) => ∃ t : State, exec (.writeDataByte k b ack) s = .next t ∧
      cageBecomes k { c with gate := g } s t
    let beyond := h.nacked = true ∨ (h.treatment = .relayCapture ∧ 256 ≤ h.data.length)
    (h.treatment = .intercept →
      becomes (c.gate.waits { n with data := if h.data.length < 2 then h.data ++ [b] else h.data } .ack)) ∧
    (h.treatment = .refuse → becomes (c.gate.waits n .nack)) ∧
    (h.treatment = .relay → h.toModule = false → becomes (c.gate.waits n (if ack then .ack else .nack))) ∧
    (h.treatment = .relayCapture ∨ (h.treatment = .relay ∧ h.toModule = true) →
      (beyond → becomes { c.gate.waits { n with nacked := true, sheetSelect := none } .nack with
        port := .free
        ctrl := { c.gate.ctrl with sheet := h.sheetSelect.getD c.gate.ctrl.sheet }
        modc := { c.gate.modc with sheet := h.sheetSelect.or c.gate.modc.sheet } }) ∧
      (¬beyond → ack = true → becomes { c.gate.waits { n with
            sheetSelect := if c.gate.ctrl.pointer = 125 then some b else h.sheetSelect
            data := if h.treatment = .relayCapture then h.data ++ [b] else h.data } .ack with
        ctrl := { c.gate.ctrl with pointer := advance c.gate.ctrl.pointer }
        modc := { c.gate.modc with pointer := c.gate.modc.pointer.map advance } }) ∧
      (¬beyond → ack = false → becomes (c.gate.waits { n with nacked := true } .nack)))

/-- DEFER_DATA_BYTE: up to sixteen bytes join the entry, one at position 125 noted as a sheet select; a seventeenth discards
the entry, and a byte that meets a CLOSED queue finds none: either is refused, counted as busy, and moves the controller cursor
as far as a write refused there.  A channel that waits in DRAIN for a discarded entry goes on; a comparison after a cursor
return that waits for the write waits on. -/
def Obligations.DeferByteBounded : Prop :=
  ∀ (k : CageId) (b o : Byte) (h : InHand) (s : State), let c := s.cage k
    s.takes k h .data → h.treatment = .defer → h.offset = some o →
    let n := { h with upperBytes := min (h.upperBytes + 1) 255 }
    let drains := fun u : State =>
      (∀ (ch : Fin 4) (x : ChannelCtx), u.channelOf k = some (ch, x) → x.work = .awaitFill →
        exec (.deferDataByte k b) s = .next (u.drain ch x)) ∧
      ((∀ (ch : Fin 4) (x : ChannelCtx), u.channelOf k = some (ch, x) → x.work ≠ .awaitFill) →
        exec (.deferDataByte k b) s = .next u)
    let refused := fun (d : Cage) (h' : InHand) (p : Byte) => { d with
      gate := { d.gate.refuses h' with ctrl := { d.gate.ctrl with pointer := p } }
      seq := { d.seq with counters := { d.seq.counters with busyRefusals := d.seq.counters.busyRefusals + 1 } } }
    (∀ e : DeferEntry, h.place = .queued → c.buffers.filling? = some e →
      (e.data.length < 16 → ∃ t : State, exec (.deferDataByte k b) s = .next t ∧
        cageBecomes k { c with
          gate := c.gate.waits { n with
            sheetSelect := if advanceN o e.data.length = 125 then some b else h.sheetSelect } .ack
          buffers := { c.buffers with queue := c.buffers.queue.map fun x =>
            if x.filling then { e with data := e.data ++ [b] } else x } } s t) ∧
      (16 ≤ e.data.length → ∃ u : State, drains u ∧
        cageBecomes k (refused { c with buffers := { c.buffers with
          queue := c.buffers.queue.filter fun x => !x.filling } } { n with place := .closed }
          (advanceN o e.data.length)) s u)) ∧
    (∀ e : DeferEntry, h.place = .detached e →
      (e.data.length < 16 → ∃ t : State, exec (.deferDataByte k b) s = .next t ∧
        cageBecomes k { c with gate := c.gate.waits { n with
          sheetSelect := if advanceN o e.data.length = 125 then some b else h.sheetSelect
          place := .detached { e with data := e.data ++ [b] } } .ack } s t) ∧
      (16 ≤ e.data.length → ∃ u : State, drains u ∧
        cageBecomes k (refused c { n with place := .closed } (advanceN o e.data.length)) s u)) ∧
    (h.place = .closed → ∃ t : State, exec (.deferDataByte k b) s = .next t ∧
      cageBecomes k (refused c { n with sheetSelect := none } o) s t)

/-- READ_DATA_BYTE passes a relayed byte up and, from the module, moves both pointers; the controller's NACK ends the read, and
later bytes of it, as those of a refused read, are 0xFF and move nothing.  SLOT_READ_BYTE gives the next byte of a served read
from the slot and moves the controller pointer, 0xFF past its data, until the controller's NACK; an unserved read gives 0xFF
and moves nothing.  In HUNT either reads 0xFF; that it begins the bus-free measure again is the model's reading (log
entry 27). -/
def Obligations.ReadBytesMoveCursors : Prop :=
  ∀ (k : CageId) (ack : Bool) (s : State), let c := s.cage k
    let becomes := fun (i : Instr) (g : Gate) => ∃ t : State, exec i s = .next t ∧ cageBecomes k { c with gate := g } s t
    (s.lineReset = false → c.gate.relay = .hunt →
      let hunts := { c.gate with answer := .byte 0xFF, stallElapsed := 0 }
      (∀ b : Byte, becomes (.readDataByte k b ack) hunts) ∧ becomes (.slotReadByte k ack) hunts) ∧
    ∀ h : InHand, s.takes k h .data →
      let n := { h with upperBytes := min (h.upperBytes + 1) 255 }
      let last := { n with nacked := !ack }
      (∀ b : Byte, h.reads = true →
        (h.treatment = .relay → h.toModule = true → h.nacked = false →
          becomes (.readDataByte k b ack) { c.gate.waits last (.byte b) with
            ctrl := { c.gate.ctrl with pointer := advance c.gate.ctrl.pointer }
            modc := { c.gate.modc with pointer := c.gate.modc.pointer.map advance } }) ∧
        (h.treatment = .relay → h.toModule = true → h.nacked = true →
          becomes (.readDataByte k b ack) (c.gate.waits n (.byte 0xFF))) ∧
        (h.treatment = .relay → h.toModule = false → becomes (.readDataByte k b ack) (c.gate.waits n (.byte b))) ∧
        (h.treatment = .refuse → becomes (.readDataByte k b ack) (c.gate.waits n (.byte 0xFF)))) ∧
      (h.treatment = .readSlot →
        (h.served = false ∨ h.nacked = true → becomes (.slotReadByte k ack) (c.gate.waits n (.byte 0xFF))) ∧
        (h.served = true → h.nacked = false →
          let moves := fun b : Byte => { c.gate.waits last (.byte b) with
            ctrl := { c.gate.ctrl with pointer := advance c.gate.ctrl.pointer } }
          (∀ (l : Cursor) (data : List Byte), c.buffers.slot = .ready l data →
            becomes (.slotReadByte k ack) (moves (data[h.upperBytes]?.getD 0xFF))) ∧
          ((∀ (l : Cursor) (data : List Byte), c.buffers.slot ≠ .ready l data) →
            becomes (.slotReadByte k ack) (moves 0xFF))))

/-- UPPER_STOP and UPPER_REPEATED_START end the transaction in hand by its treatment: a relayed write's noted sheet is applied
to both cursors, and with capture its bytes are handed to the journal; a DEFER write moves the controller cursor, and its entry
becomes COMPLETE, leaves when it has no data, or, held by the gate alone, is handed to the journal; a served read frees the
slot; an intercepted write's directive arrives once the gate has let go of it.  A channel that waits for the end of a DEFER
write, refused since or not, or of a held read goes on.  A stop leaves the gate IDLE, a repeated start opens the next
transaction with its sheet latched.  In HUNT a stop ends it in IDLE; that a repeated start begins the bus-free measure again is
the model's reading (log entry 27), and that a cursor return which a directive begins at a repeated start looks at CDA before
the next transaction opens is its choice (log entry 49). -/
def Obligations.EndHandledByTreatment : Prop :=
  (∀ (k : CageId) (s : State), let c := s.cage k
    s.lineReset = false → c.gate.relay = .hunt →
    (∃ t : State, exec (.upperStop k) s = .next t ∧
      cageBecomes k { c with gate := c.gate.lets .idle .free }.resumed s t) ∧
    ∃ t : State, exec (.upperRepeatedStart k) s = .next t ∧
      cageBecomes k { c with gate := { c.gate with answer := .none, stallElapsed := 0 } } s t) ∧
  ∀ (k : CageId) (h : InHand) (again : Bool) (s : State), let c := s.cage k
    s.lineReset = false → s.resetLoading = false → c.gate.relay ≠ .hunt → c.gate.inHand = some h →
    c.gate.stretching = false → c.gate.stuckForSeq = false →
    let u := s.endTransaction k h again
    let d := u.cage k
    (again = false → ∃ t : State, exec (.upperStop k) s = .next t ∧ cageBecomes k d.resumed u t) ∧
    (again = true → ∃ t : State, exec (.upperRepeatedStart k) s = .next t ∧
      cageBecomes k { d with gate := { d.gate with
        relay := .holding
        answer := .none
        stallUse := if d.gate.stuckForSeq then d.gate.stallUse else .upstream
        stallElapsed := if d.gate.stuckForSeq then d.gate.stallElapsed else 0
        inHand := some { addressByte := none, toModule := false, treatment := .undecided, stage := .address,
                         refSheet := d.gate.ctrl.sheet, offset := none, data := [], sheetSelect := none,
                         upperBytes := 0, nacked := false, place := .closed, served := false } } } u t) ∧
    let ended := fun g : Gate => g.lets .idle
      (if again = true ∧ c.gate.relay = .relaying ∧ c.gate.port = .busy then .repeated else .free)
    let moves := fun (o : Byte) (n : Nat) =>
      { c.gate with ctrl := { sheet := h.sheetSelect.getD c.gate.ctrl.sheet, pointer := advanceN o n } }
    let resumes := fun (e : Cage) => ∃ v : State, cageBecomes k e s v ∧ u = v.resumeChannel k
    (h.treatment = .relay → cageBecomes k { c with gate := ended (c.gate.selects h) } s u) ∧
    (∀ o : Byte, h.treatment = .relayCapture → h.offset = some o →
      ∃ v : State, cageBecomes k { c with gate :=
        { c.gate.selects h with inHand := some { h with sheetSelect := none } } } s v ∧
        let w := v.capture k h.refSheet o h.data
        cageBecomes k { w.cage k with gate := ended (c.gate.selects h) } w u) ∧
    (h.treatment = .undecided → cageBecomes k { c with gate := ended c.gate } s u) ∧
    (h.treatment = .refuse → h.sheetSelect = none → resumes { c with gate := ended c.gate }) ∧
    (∀ n : Byte, h.treatment = .refuse → h.sheetSelect = some n →
      resumes { c with gate := ended { c.gate with ctrl := { c.gate.ctrl with sheet := n } } }) ∧
    (h.treatment = .intercept → h.data = [] → cageBecomes k { c with gate := ended c.gate } s u) ∧
    (∀ (code : Byte) (rest : List Byte), h.treatment = .intercept → h.data = code :: rest →
      ∃ v : State, cageBecomes k { c with gate := ended c.gate } s v ∧
        u = v.arrive k { code := code, arg := rest.head? }) ∧
    (∀ (o : Byte) (e : DeferEntry), h.treatment = .defer → h.offset = some o → h.place = .queued →
      c.buffers.filling? = some e →
      resumes { c with
        gate := ended (moves o e.data.length)
        buffers := { c.buffers with queue := c.buffers.queue.filterMap fun x =>
          if x.filling then (if x.data = [] then none else some { x with filling := false }) else some x } }) ∧
    (∀ o : Byte, h.treatment = .defer → h.offset = some o → h.place = .closed →
      resumes { c with gate := ended (moves o 0) }) ∧
    (∀ (o : Byte) (e : DeferEntry), h.treatment = .defer → h.offset = some o → h.place = .detached e → e.data = [] →
      resumes { c with gate := ended (moves o 0) }) ∧
    (∀ (o : Byte) (e : DeferEntry), h.treatment = .defer → h.offset = some o → h.place = .detached e → e.data ≠ [] →
      ∃ v x : State, cageBecomes k { c with gate := moves o e.data.length } s v ∧
        let w := v.capture k e.sheet e.offset e.data
        cageBecomes k { w.cage k with gate := ended (moves o e.data.length) } w x ∧ u = x.resumeChannel k) ∧
    (h.treatment = .readSlot →
      resumes { c with
        gate := ended c.gate
        buffers := if h.served then { c.buffers with slot := .free, discard := none } else c.buffers })

/-- UPSTREAM_STALL takes the stall action where the upstream use of the stall timer has reached the limit: a relayed write is
accounted and, with capture, handed to the journal as at a stop; a byte in progress of a relayed read counts as supplied; a
DEFER write, queued, CLOSED or held by the gate alone, a refused one, with the sheet select it may owe, and a held read end as
at a stop; then UPSTREAM-STALL is logged with the address byte, or 255, and the bytes completed, and the gate is in HUNT,
measuring the bus-free interval.  Below the limit, as after a byte taken first, no stall occurs.  That an upstream use stopped
by a removal may still expire is the model's reading (log entry 16); that the command carries the time measured, and that a
cage port held at a repeated start is then free, are its choices (log entries 43 and 38).  BUS_FREE_INTERVAL ends HUNT in IDLE
where UCL and UDA have been high without a break for the limit, which it carries; below the limit HUNT goes on. -/
def Obligations.StallEntersHunt : Prop :=
  ∀ (k : CageId) (waited : Nat) (s : State), let c := s.cage k
    let counts := c.gate.stallUse = .upstream ∨ c.gate.stallUse = .stopped
    let reached := c.gate.active.stall ≤ max c.gate.stallElapsed waited
    (∀ (h : InHand) (inRead : Bool), s.resetLoading = false → c.gate.inHand = some h → c.gate.stretching = false →
      c.gate.stuckForSeq = false → counts → reached →
      let e : FaultEntry := { kind := .upstreamStall, cage := some k, state := some c.seq.shown, uptime := s.log.uptime,
                              detail1 := BitVec.ofNat 16 (h.addressByte.elim 255 BitVec.toNat)
                              detail2 := BitVec.ofNat 16 (h.addressByte.elim 0 fun _ => h.upperBytes) }
      let hunt := fun g : Gate => { g.lets .hunt .free with stallUse := .busFree }
      let moves := fun (o : Byte) (n : Nat) =>
        { c.gate with ctrl := { sheet := h.sheetSelect.getD c.gate.ctrl.sheet, pointer := advanceN o n } }
      let supplied := inRead = true ∧ h.reads = true ∧ h.toModule = true ∧ h.offset = none ∧ h.nacked = false ∧
        c.gate.relay = .relaying
      ∃ t : State, exec (.upstreamStall k inRead waited) s = .next t ∧
        let resumes := fun (d : Cage) => ∃ v : State, cageBecomes k d (s.takeFault e) v ∧ t = v.resumeChannel k
        (h.treatment = .relay →
          (supplied →
            cageBecomes k { c with gate := hunt { c.gate with
              ctrl := { c.gate.ctrl with pointer := advance c.gate.ctrl.pointer }
              modc := { c.gate.modc with pointer := c.gate.modc.pointer.map advance } } } (s.takeFault e) t) ∧
          (¬supplied → cageBecomes k { c with gate := hunt (c.gate.selects h) } (s.takeFault e) t)) ∧
        (∀ o : Byte, h.treatment = .relayCapture → h.offset = some o →
          ∃ v : State, cageBecomes k { c with gate :=
            { c.gate.selects h with inHand := some { h with sheetSelect := none } } } s v ∧
            let w := v.capture k h.refSheet o h.data
            cageBecomes k { w.cage k with gate := hunt (c.gate.selects h) } (w.takeFault e) t) ∧
        (h.treatment = .undecided ∨ h.treatment = .intercept →
          cageBecomes k { c with gate := hunt c.gate } (s.takeFault e) t) ∧
        (h.treatment = .refuse → h.sheetSelect = none → resumes { c with gate := hunt c.gate }) ∧
        (∀ n : Byte, h.treatment = .refuse → h.sheetSelect = some n →
          resumes { c with gate := hunt { c.gate with ctrl := { c.gate.ctrl with sheet := n } } }) ∧
        (∀ (o : Byte) (x : DeferEntry), h.treatment = .defer → h.offset = some o → h.place = .queued →
          c.buffers.filling? = some x →
          resumes { c with
            gate := hunt (moves o x.data.length)
            buffers := { c.buffers with queue := c.buffers.queue.filterMap fun x =>
              if x.filling then (if x.data = [] then none else some { x with filling := false }) else some x } }) ∧
        (∀ o : Byte, h.treatment = .defer → h.offset = some o → h.place = .closed →
          resumes { c with gate := hunt (moves o 0) }) ∧
        (∀ (o : Byte) (x : DeferEntry), h.treatment = .defer → h.offset = some o → h.place = .detached x → x.data = [] →
          resumes { c with gate := hunt (moves o 0) }) ∧
        (∀ (o : Byte) (x : DeferEntry), h.treatment = .defer → h.offset = some o → h.place = .detached x → x.data ≠ [] →
          ∃ v y : State, cageBecomes k { c with gate := moves o x.data.length } s v ∧
            let w := v.capture k x.sheet x.offset x.data
            cageBecomes k { w.cage k with gate := hunt (moves o x.data.length) }
              (w.takeFault { e with state := some (w.cage k).seq.shown }) y ∧ t = y.resumeChannel k) ∧
        (h.treatment = .readSlot →
          resumes { c with
            gate := hunt c.gate
            buffers := if h.served then { c.buffers with slot := .free, discard := none } else c.buffers })) ∧
    (∀ inRead : Bool, c.gate.inHand = none ∨ s.resetLoading = true ∨ ¬counts ∨ ¬reached →
      exec (.upstreamStall k inRead waited) s = .next s) ∧
    (∀ free : Nat,
      (c.gate.relay = .hunt → c.gate.active.stall ≤ free → ∃ t : State, exec (.busFreeInterval k free) s = .next t ∧
        cageBecomes k { c with gate := c.gate.lets .idle .free }.resumed s t) ∧
      (c.gate.relay = .hunt → free < c.gate.active.stall → ∃ t : State, exec (.busFreeInterval k free) s = .next t ∧
        cageBecomes k { c with gate := { c.gate with stallElapsed := free } } s t) ∧
      (c.gate.relay ≠ .hunt → exec (.busFreeInterval k free) s = .next s))

/-- The check of CDA at the gate: CDA_RELEASED starts the relay or the sequencer's transaction that waited;
STUCK_DETECTION_EXPIRY begins the bus clear; BUS_CLEAR_END with the line released stops the cage port, counts a bus clear and
starts what waited; not released, BUS-STUCK is logged with the pulses the clear made, a waiting relay is refused, and a cage in
any state but EMPTY, SETTLE and RESTORE goes to FAULTED, off its list and its charge, with its module cursor UNKNOWN and its
lines kept.  CCL_HOLD_EXPIRY in a relay measures the hold below the stuck detection time, and at a release there the relay goes
on, the upstream measure from 0 where the gate waits for the controller; at the detection time the bytes taken are accounted
and, with capture, handed to the journal, the byte in progress is answered with NACK, after the rest of a read's byte as ones,
and BUS-STUCK is logged in the same way.  The model's own are the timer's value at the detection time (log entry 3), the set
that a check and its clear keep (log entry 44), the order of capture, fault and move (log entry 14), the time the hold's command
carries, the measure after a release and the count of the byte in progress (log entries 21 and 43), and the cage port as after a
stop when a hold ends the relay (log entry 50). -/
def Obligations.StuckBusAtGate : Prop :=
  ∀ (k : CageId) (s : State), let c := s.cage k
    let starts := fun d : Cage => if c.gate.stretching then
        { d with gate := { d.gate with clearing := false, stallUse := .stopped, stallElapsed := 0 } }
      else { d with
        gate := { d.gate with clearing := false, stallElapsed := 0,
                              stallUse := if c.gate.inHand.isSome then .upstream else .stopped }
        seq := { d.seq with started := true } }
    let fault := fun pulses : Nat =>
      ({ kind := .busStuck, cage := some k, state := some c.seq.shown, uptime := s.log.uptime,
         detail1 := 255, detail2 := BitVec.ofNat 16 pulses } : FaultEntry)
    let stays := c.seq.state = .empty ∨ c.seq.state = .settle ∨ c.seq.state = .restore
    let stuck := fun (g : Gate) (pulses : Nat) (b t : State) =>
      ∃ w : State, cageBecomes k { b.cage k with gate := g } (b.takeFault { fault pulses with uptime := b.log.uptime }) w ∧
        (stays → t = w) ∧
        (¬stays → c.slot = none → let v := w.unlisted k
          let d := v.cage k
          cageBecomes k { d with
            gate := { d.gate with modc := { sheet := none, pointer := none } }
            timer := { d.timer with use := .idle }
            seq := { d.seq with state := .faulted, adoptPending := false, decision := false, ppres := true, pint := c.mint,
                                attempt := none, due := .none, ret := none, started := false, carried := none } } v t)
    (c.gate.stallUse = .stuck → c.gate.clearing = false →
      (∃ t : State, exec (.cdaReleased k) s = .next t ∧ cageBecomes k (starts c) s t) ∧
      ∃ t : State, exec (.stuckDetectionExpiry k) s = .next t ∧
        cageBecomes k { c with gate := { c.gate with
          clearing := true, stallUse := .stopped
          stallElapsed := max c.gate.stallElapsed c.gate.checkSet.stuckDetect } } s t) ∧
    (c.gate.clearing = true →
      (∃ t : State, exec (.busClearEnd k true) s = .next t ∧
        cageBecomes k (starts { c with
          gate := { c.gate with port := .free }
          seq := { c.seq with counters :=
            { c.seq.counters with busClears := c.seq.counters.busClears + 1 } } }) s t) ∧
      ∃ t : State, exec (.busClearEnd k false) s = .next t ∧
        (c.gate.stretching = false → stuck { c.gate with
          clearing := false, stallElapsed := 0
          stallUse := if c.gate.inHand.isSome then .upstream else .stopped } c.gate.checkSet.clearPulses s t) ∧
        (∀ h : InHand, c.gate.inHand = some h → c.gate.stretching = true →
          stuck { c.gate.refuses { h with sheetSelect := none, data := [] } with clearing := false }
            c.gate.checkSet.clearPulses s t)) ∧
    (∀ (h : InHand) (held : Nat) (released : Bool), c.gate.inHand = some h → c.gate.clearing = false →
      c.gate.relay = .relaying ∨ (c.gate.stretching = true ∧ c.gate.stallUse ≠ .stuck) →
      let time := if c.gate.stallUse = .hold then max c.gate.stallElapsed held else held
      (time < c.gate.active.stuckDetect → ∃ t : State, exec (.cclHoldExpiry k held released) s = .next t ∧
        cageBecomes k { c with gate := if released then
            { c.gate with stallUse := if c.gate.stretching then .stopped else .upstream, stallElapsed := 0 }
          else { c.gate with stallUse := .hold, stallElapsed := time } } s t) ∧
      (c.gate.active.stuckDetect ≤ time →
        ∃ u t : State, exec (.cclHoldExpiry k held released) s = .next t ∧
          cageBecomes k { c with gate := { c.gate.selects h with inHand := some { h with sheetSelect := none } } } s u ∧
          let b := (match h.treatment, h.offset with
            | .relayCapture, some o => u.capture k h.refSheet o h.data
            | _, _ => u)
          let rest := { h with sheetSelect := none, data := [] }
          let g := c.gate.selects h
          (c.gate.relay = .relaying →
            stuck { g.refuses { rest with upperBytes := min (h.upperBytes + 1) 255 } with
              answer := if h.reads then .cut else .nack } 0 b t) ∧
          (c.gate.relay ≠ .relaying → stuck (g.refuses rest) 0 b t)))

/-- The check of CDA at a channel: CDA_RELEASED begins the transaction that waited, from its start, and its schedule from 0
(the model's choice, log entry 36); STUCK_DETECTION_EXPIRY begins the bus clear, the delay timer stopped at the detection time
(the model's reading, log entry 3); BUS_CLEAR_END with the line released counts a bus clear and begins the transaction; not
released, BUS-STUCK is logged with the channel's number and the restore fails without a cursor return: the channel is released,
a failure is counted, and the cage enters FAULTED with its module cursor UNKNOWN. -/
def Obligations.StuckBusAtChannel : Prop :=
  ∀ (k : CageId) (ch : Fin 4) (x : ChannelCtx) (s : State), let c := s.cage k
    let h := s.channels[ch]
    s.channelOf k = some (ch, x) → c.gate.stallUse ≠ .stuck → c.gate.clearing = false →
    let starts := h.begun { x with stuck := .none, pointed := false }
    (x.stuck = .waiting →
      (∃ t : State, exec (.cdaReleased k) s = .next t ∧ channelBecomes ch starts s t) ∧
      ∃ t : State, exec (.stuckDetectionExpiry k) s = .next t ∧
        channelBecomes ch { h with
          ctx := some { x with stuck := .clearing }
          delayRunning := false
          delay := max h.delay h.active.stuckDetect } s t) ∧
    (x.stuck = .clearing →
      (∃ t : State, exec (.busClearEnd k true) s = .next t ∧
        bothBecome k { c with seq := { c.seq with counters :=
          { c.seq.counters with busClears := c.seq.counters.busClears + 1 } } } ch starts s t) ∧
      (c.buffers.queue = [] → c.slot = none → ∃ t : State, exec (.busClearEnd k false) s = .next t ∧
        bothBecome k { c with
          gate := { c.gate with modc := { sheet := none, pointer := none } }
          buffers := { queue := [], closed := false, slot := .free, discard := none }
          timer := { c.timer with use := .idle }
          seq := { c.seq with state := .faulted, adoptPending := false, decision := false, ppres := true,
                              pint := c.mint, attempt := none, due := .none, ret := none, started := false,
                              counters := { c.seq.counters with
                                restoreFailures := c.seq.counters.restoreFailures + 1 } } }
          ch { h with ctx := none, delayRunning := false, delay := 0 }
          (s.takeFault { kind := .busStuck, cage := some k, state := some c.seq.shown, uptime := s.log.uptime,
                         detail1 := BitVec.ofNat 16 ch.val, detail2 := BitVec.ofNat 16 h.active.clearPulses }) t))

/-! ## Directives -/

/-- RESEAT in every state but EMPTY and RESTORE: MRST_n and MLPW asserted, PPRES_n and PINT_n deasserted, decision NO, the cage
in SETTLE with its settle phase from 0; the list and the charge set are left, upon which the unit makes its tests, a
transaction in progress, or one still carried from before (log entry 10), is carried to its end, and a directive that waited on
a cursor return is named DISCARDED with the state left (log entry 20).  Journal, cursors, buffers and counters stay.  That a
stuck check or bus clear made for the sequencer is dropped is the model's choice (log entry 35), and so is that a boot time or
a power time which the stopped attempt has captured stands (log entry 45).  In EMPTY it is refused with reason STATE. -/
def Obligations.ReseatRestartsModule : Prop :=
  ∀ (k : CageId) (arg : Option Byte) (s : State), let c := s.cage k
    s.inService = true →
    (c.seq.state = .empty → c.seq.ret = none → ∃ t : State, exec (.reseat k arg) s = .next t ∧
      t = { s with notice := s.notice.submit (frameOf .directiveRefused (cageByte k) 0x01 (arg.getD 0)
        (BitVec.ofNat 8 CageState.empty.code) RefuseReason.state.byte 0) }) ∧
    (c.seq.state ≠ .empty → c.seq.state ≠ .restore →
      ∃ v t : State, exec (.reseat k arg) s = .next t ∧
        cageBecomes k { c with slot := if c.seq.ret.isSome then none else c.slot }
          { s with notice := match c.seq.ret, c.slot with
            | some _, some d => s.notice.submit (frameOf .directiveRefused (cageByte k) d.code (d.arg.getD 0)
                (BitVec.ofNat 8 c.seq.state.code) RefuseReason.discarded.byte 0)
            | _, _ => s.notice } v ∧
        let a := (v.unlisted k).adoptSeq k
        let d := a.cage k
        cageBecomes k { d with
          seq := { d.seq with state := .settle, adoptPending := false, decision := false, mrst := true, mlpw := true,
                              ppres := false, pint := false, attempt := none, due := .none, bootCaptured := false,
                              ret := none, started := false, carried := c.seqTrans? }
          timer := { use := .phase .settle none d.seq.active.settle, elapsed := 0 }
          gate := if c.gate.stuckForSeq then { c.gate with
              clearing := false, stallElapsed := 0,
              stallUse := if c.gate.inHand.isSome then .upstream else .stopped }
            else c.gate } a t)

/-- RESUME in HELD with a usable journal takes the cage to QUEUED, its decision YES where the journal holds a record, at the tail
of the admission list with the draw computed now, and where that was empty its head is checked at once.  RESTORE_NOW in LIVE with
a usable journal that holds a record takes it to STAGED at the tail of the staged list with decision YES.  Each is refused with
reason JOURNAL where the journal forbids it and with reason STATE in every other state outside RESTORE and cursor returns. -/
def Obligations.ResumeAndRestoreNow : Prop :=
  ∀ (k : CageId) (arg : Option Byte) (s : State), let c := s.cage k
    s.inService = true → c.seq.state ≠ .restore → c.seq.ret = none →
    let usable := c.journal.state = .opened ∨ c.journal.state = .frozen
    let yes := decide (0 < c.journal.slots.length)
    let refused := fun (code : Byte) (reason : RefuseReason) => { s with
      notice := s.notice.submit
        (frameOf .directiveRefused (cageByte k) code (arg.getD 0) (BitVec.ofNat 8 c.seq.state.code) reason.byte 0) }
    let waits := fun (st : CageState) (yes : Bool) => { c with
      seq := { c.seq with state := st, adoptPending := false, decision := yes, pint := false,
                          ppres := decide (s.profile.policy = .early), attempt := none, due := .none, ret := none,
                          started := false }
      timer := { use := .wait, elapsed := 0 }
      journal := { c.journal with incomplete := c.journal.incomplete || yes } }
    (c.seq.state = .held → usable → ∃ u : State,
      exec (.resume k arg) s = .next (if s.power.list = [] then u.checkHead else u) ∧
      cageBecomes k (waits .queued yes) { s with power := { s.power with list := s.power.list ++
        [{ cage := k, cls := c.seq.powerClass
           draw := (s.power.draws[c.seq.powerClass] * s.power.factor + 15) / 16 }] } } u) ∧
    (c.seq.state = .held → ¬usable → exec (.resume k arg) s = .next (refused 0x02 .journal)) ∧
    (c.seq.state ≠ .held → exec (.resume k arg) s = .next (refused 0x02 .state)) ∧
    (c.seq.state = .live → usable → yes = true → ∃ t : State, exec (.restoreNow k arg) s = .next t ∧
      cageBecomes k (waits .staged true) { s with staged := s.staged ++ [k] } t) ∧
    (c.seq.state = .live → ¬usable ∨ yes = false → exec (.restoreNow k arg) s = .next (refused 0x04 .journal)) ∧
    (c.seq.state ≠ .live → exec (.restoreNow k arg) s = .next (refused 0x04 .state))

/-- FORGET outside RESTORE and cursor returns frees every slot of the journal unread and leaves it OPEN, with one empty
segment, no identity record and the flag clear, its quota and mask kept.  HELD goes to QUEUED with decision NO, where the head
of a list that was empty is checked at once, QUEUED and POWERUP take decision NO, STAGED leaves its list with decision NO and
begins a cursor return toward LIVE, FAULTED is reseated (log entries 10 and 35), and every other state stays. -/
def Obligations.ForgetEmptiesJournal : Prop :=
  ∀ (k : CageId) (arg : Option Byte) (s : State), let c := s.cage k
    s.inService = true → c.seq.state ≠ .restore → c.seq.ret = none →
    let e : State := { s with store := { s.store with slots := c.journal.slots.foldl SlotMem.free s.store.slots } }
    let d := { c with journal := { c.journal with state := .opened, closed := [], opened := [], identity := none,
                                                  incomplete := false } }
    (∀ i : Nat, SlotMem.wf s.store.slots = true → SlotMem.read e.store.slots i =
      if i ∈ c.journal.slots then { SlotMem.read s.store.slots i with used := false } else SlotMem.read s.store.slots i) ∧
    ∃ t : State, exec (.forget k arg) s = .next t ∧
      (c.seq.state = .empty ∨ c.seq.state = .settle ∨ c.seq.state = .probe ∨ c.seq.state = .adopt ∨ c.seq.state = .live →
        cageBecomes k d e t) ∧
      (c.seq.state = .queued ∨ c.seq.state = .powerup →
        cageBecomes k { d with seq := { c.seq with decision := false } } e t) ∧
      (c.seq.state = .held → ∃ u : State, t = (if s.power.list = [] then u.checkHead else u) ∧ cageBecomes k { d with
          seq := { c.seq with state := .queued, adoptPending := false, decision := false, pint := false,
                              ppres := decide (s.profile.policy = .early), attempt := none, due := .none, ret := none,
                              started := false }
          timer := { use := .wait, elapsed := 0 } }
        { e with power := { s.power with list := s.power.list ++
          [{ cage := k, cls := c.seq.powerClass
             draw := (s.power.draws[c.seq.powerClass] * s.power.factor + 15) / 16 }] } } u) ∧
      (c.seq.state = .staged →
        let a := s.adoptSeq k
        cageBecomes k { d with
          seq := { c.seq with decision := false, active := (a.cage k).seq.active,
                              adoptionDue := (a.cage k).seq.adoptionDue, attempt := none, due := .none,
                              ret := some { target := .live, goal := c.gate.ctrl, retry := .inHand }
                              started := decide (c.gate.stallUse = .stopped ∨ c.gate.stallUse = .stuck) }
          timer := c.returnTimer }
        { a with store := e.store, staged := s.staged.filter fun j => j ≠ k } t) ∧
      (c.seq.state = .faulted →
        let a := s.adoptSeq k
        cageBecomes k { d with
          seq := { c.seq with state := .settle, adoptPending := false, decision := false, mrst := true, mlpw := true,
                              ppres := false, pint := false, attempt := none, due := .none, bootCaptured := false,
                              ret := none, started := false, active := (a.cage k).seq.active,
                              adoptionDue := (a.cage k).seq.adoptionDue, carried := c.seqTrans? }
          timer := { use := .phase .settle none (a.cage k).seq.active.settle, elapsed := 0 }
          gate := if c.gate.stuckForSeq then { c.gate with
              clearing := false, stallElapsed := 0,
              stallUse := if c.gate.inHand.isSome then .upstream else .stopped }
            else c.gate }
        { a with store := e.store } t)

/-- FREEZE makes an OPEN or FROZEN journal FROZEN, THAW makes one OPEN, and each is refused with reason JOURNAL in SPILLED and
DAMAGED; INJECT with a mask of no, one or an even number of bits stores it as the pending mask, none for 0x00.  Each changes
nothing else. -/
def Obligations.JournalDirectives : Prop :=
  ∀ (k : CageId) (arg : Option Byte) (s : State), let c := s.cage k
    s.inService = true → c.seq.state ≠ .restore → c.seq.ret = none →
    let becomes := fun (i : Instr) (j : CageRecord) => ∃ t : State, exec i s = .next t ∧
      cageBecomes k { c with journal := j } s t
    let refused := fun (code : Byte) => { s with
      notice := s.notice.submit (frameOf .directiveRefused (cageByte k) code (arg.getD 0)
        (BitVec.ofNat 8 c.seq.state.code) RefuseReason.journal.byte 0) }
    let usable := c.journal.state = .opened ∨ c.journal.state = .frozen
    (usable → becomes (.freeze k arg) { c.journal with state := .frozen } ∧
      becomes (.thaw k arg) { c.journal with state := .opened }) ∧
    (¬usable → exec (.freeze k arg) s = .next (refused 0x05) ∧ exec (.thaw k arg) s = .next (refused 0x06)) ∧
    (∀ m : Byte, arg = some m → bitCount m = 1 ∨ bitCount m % 2 = 0 →
      becomes (.inject k arg) { c.journal with mask := if m = 0 then none else some m })

/-- LOG, CLEARLOG and RELOAD act on arrival in every cage state: LOG queues its three frames and changes nothing else, CLEARLOG
empties the Fault Log and keeps the uptime, RELOAD starts a load, or is refused with reason BUSY while one runs, the frame
showing the state of the cage whose port carried it (the model's choice, log entry 39).  REPORT, outside RESTORE and cursor
returns, queues its five frames of one moment and changes nothing else.  The log takes a fault, stamped with the uptime and the
cage's state: the first fills the record, a later one joins the set and the saturating count, and each queues its FAULT frame. -/
def Obligations.ReportAndPartDirectives : Prop :=
  (∀ (kind : FaultKind) (k : CageId) (d1 d2 : Nat) (s : State),
    let e : FaultEntry := { kind := kind, cage := some k, state := some (s.cage k).seq.shown, uptime := s.log.uptime,
                            detail1 := BitVec.ofNat 16 d1, detail2 := BitVec.ofNat 16 d2 }
    let frame := frameOf .fault (cageByte k) (BitVec.ofNat 8 (kind.code * 16 + (s.cage k).seq.shown.code))
      (BitVec.ofNat 8 (d1 % 65536 / 256)) (BitVec.ofNat 8 d1) (BitVec.ofNat 8 (d2 % 65536 / 256)) (BitVec.ofNat 8 d2)
    s.logFault kind (some k) d1 d2 = s.takeFault e ∧
    (s.log.first = none → s.takeFault e = { s with
      log := { s.log with first := some e }, notice := s.notice.submit frame }) ∧
    (∀ old : FaultEntry, s.log.first = some old → s.takeFault e = { s with
      log := { s.log with
        later := s.log.later ||| BitVec.ofNat 10 (2 ^ (kind.code - 1))
        laterCount := min (s.log.laterCount + 1) 255 }
      notice := s.notice.submit frame })) ∧
  ∀ (k : CageId) (arg : Option Byte) (s : State), let c := s.cage k
    s.inService = true →
    exec (.log k arg) s = .next { s with
      notice := ((s.notice.submit s.log.log1).submit s.log.log2).submit s.log.log3 } ∧
    exec (.clearLog k arg) s = .next { s with
      log := { first := none, later := 0, laterCount := 0, corrected := 0, uptime := s.log.uptime } } ∧
    (s.loader.load = none → exec (.reload k arg) s = .next { s with loader := { s.loader with
      load := some .reload
      flash := { selected := true, sent := [0x03, 0x00, 0x00, 0x00], clocked := 0 } } }) ∧
    (s.loader.load ≠ none → exec (.reload k arg) s = .next { s with
      notice := s.notice.submit (frameOf .directiveRefused (cageByte k) 0x0B (arg.getD 0)
        (BitVec.ofNat 8 c.seq.state.code) RefuseReason.busy.byte 0) }) ∧
    (c.seq.state ≠ .restore → c.seq.ret = none → exec (.report k arg) s = .next { s with
      notice := ((((s.notice.submit (s.report1 k)).submit (s.report2 k)).submit (s.report3 k)).submit
        (s.report4 k)).submit (s.report5 k) })

/-- A code outside the table is refused with reason CODE, and an INJECT without an argument, or with an odd number of bits of
three or more, with reason ARGUMENT, in every cage state.  Any other cage directive waits in the slot in RESTORE, and all but
RESEAT in a cursor return; one already there is replaced, counted and reported. -/
def Obligations.DirectivesWaitInSlot : Prop :=
  ∀ (k : CageId) (arg : Option Byte) (s : State), let c := s.cage k
    s.inService = true →
    let refused := fun (code : Byte) (reason : RefuseReason) => { s with
      notice := s.notice.submit
        (frameOf .directiveRefused (cageByte k) code (arg.getD 0) (BitVec.ofNat 8 c.seq.state.code) reason.byte 0) }
    (∀ code : Byte, code = 0 ∨ 0x0B < code.toNat →
      exec (.unknownDirectiveCode k code arg) s = .next (refused code .code)) ∧
    ((∀ m : Byte, arg = some m → bitCount m % 2 = 1 ∧ 3 ≤ bitCount m) →
      exec (.inject k arg) s = .next (refused 0x08 .argument)) ∧
    ∀ (i : Instr) (code : Byte), c.seq.state = .restore ∨ (c.seq.ret.isSome = true ∧ code ≠ 0x01) →
      ((i, code) ∈ [(Instr.reseat k arg, (0x01 : Byte)), (Instr.resume k arg, 0x02), (Instr.forget k arg, 0x03),
        (Instr.restoreNow k arg, 0x04), (Instr.freeze k arg, 0x05), (Instr.thaw k arg, 0x06), (Instr.report k arg, 0x07)] ∨
       (i = .inject k arg ∧ code = 0x08 ∧ ∃ m : Byte, arg = some m ∧ (bitCount m = 1 ∨ bitCount m % 2 = 0))) →
      let d : Directive := { code := code, arg := arg }
      (c.slot = none → ∃ t : State, exec i s = .next t ∧ cageBecomes k { c with slot := some d } s t) ∧
      (∀ old : Directive, c.slot = some old → ∃ t : State, exec i s = .next t ∧
        cageBecomes k { c with
          slot := some d
          seq := { c.seq with counters :=
            { c.seq.counters with directiveLosses := c.seq.counters.directiveLosses + 1 } } }
          { s with notice := s.notice.submit (frameOf .directiveLost (cageByte k) old.code code 0 0 0) } t)

/-- NOTICE_FRAME_SENT takes the head frame off the queue; where the lost count is above 0 a LOST frame that carries it joins the
tail and the count returns to 0.  An empty queue stays.  A notice submitted joins the tail of a queue with room, and else is
dropped and counted, up to 255. -/
def Obligations.NoticeLeavesQueue : Prop :=
  ∀ (s : State) (f g : Frame) (rest : List Frame),
    (s.notice.queue = [] → exec .noticeFrameSent s = .next s) ∧
    (s.notice.queue = f :: rest → s.notice.lost = 0 →
      exec .noticeFrameSent s = .next { s with notice := { queue := rest, lost := 0 } }) ∧
    (s.notice.queue = f :: rest → 0 < s.notice.lost →
      exec .noticeFrameSent s = .next { s with notice :=
        { queue := rest ++ [frameOf .lost 0xFF (BitVec.ofNat 8 s.notice.lost) 0 0 0 0], lost := 0 } }) ∧
    (s.notice.queue.length < 32 → (s.submit g).notice = { s.notice with queue := s.notice.queue ++ [g] }) ∧
    (32 ≤ s.notice.queue.length → (s.submit g).notice = { s.notice with lost := min (s.notice.lost + 1) 255 })

/-! ## Capture and resolution -/

/-- A write's offset byte sets the pointer and every byte taken or supplied moves it by one advance step, which adds one to a
position from 0 to 254 and takes 255 to 128.  A pointer in the window stays in it, and a burst from there reaches every window
position once in each 128 bytes. -/
def Obligations.AdvanceStaysInWindow : Prop :=
  (∀ (m : ModCursor) (offset : Byte) (data : List Byte),
    (m.wrote offset data).pointer = some (advanceN offset data.length)) ∧
  (∀ (m : ModCursor) (n : Nat), (m.step n).pointer = m.pointer.map fun p => advanceN p n) ∧
  (∀ (p : Byte) (n : Nat), advanceN p 0 = p ∧ advanceN p (n + 1) = advance (advanceN p n)) ∧
  (∀ p : Byte, (p.toNat < 255 → (advance p).toNat = p.toNat + 1) ∧ (p = 255 → advance p = 128)) ∧
  (∀ (p : Byte) (n : Nat), 128 ≤ p.toNat → 128 ≤ (advanceN p n).toNat) ∧
  (∀ p : Byte, 128 ≤ p.toNat → advanceN p 128 = p) ∧
  (∀ (p q : Byte), 128 ≤ p.toNat → 128 ≤ q.toNat →
    ∃ n : Nat, n < 128 ∧ advanceN p n = q ∧ ∀ m : Nat, m < 128 → advanceN p m = q → m = n)

/-- A capture that passes its bounds leaves in the journal, in order, the records of the working copy: with the journal's slots
in use, distinct and clean, its records afterwards are those the write's pieces made of them, every slot of it is in use and
held once, every slot of another journal is as it was, the pending mask is the syndrome of the first record written, the
rewritten before the new, and absent from there on, an absent identity record takes the last probed identity, and everything
else of the cage and of the part stays.  A capture that exceeds a bound makes the journal SPILLED and changes nothing else but
the notices and the log.  A slot that is read and CORRECTED is written back, and the capture goes on as if it had been CLEAN;
at an UNCORRECTABLE one the capture is abandoned and the journal is DAMAGED.  The order of the reads is the model's choice (log
entries 34 and 40). -/
def Obligations.CaptureCommitsOrSpills : Prop :=
  ∀ (k : CageId) (sheet offset : Byte) (data : List Byte) (s : State), let j := (s.cage k).journal
    let w := (j.work s.store.slots).enterAll (resolve s.profile.rules sheet offset data)
    let shown := (s.cage k).seq.shown
    j.state = .opened → 0 < j.quota → resolve s.profile.rules sheet offset data ≠ [] → SlotMem.wf s.store.slots = true →
    let t := s.capture k sheet offset data
    (∀ (before after : List Nat) (i : Nat), w.reads = before ++ i :: after → (∀ m ∈ before, s.clean m) →
      (s.correctable i → t = (s.corrected k shown i).capture k sheet offset data) ∧
      (s.uncorrectable i → cageBecomes k { s.cage k with journal := { j with state := .damaged } }
        (s.takeFault (s.slotFault .uncorrectable k shown i)) t)) ∧
    (j.slots.Nodup →
      (∀ i ∈ j.slots, (SlotMem.read s.store.slots i).used = true ∧ s.clean i) →
      (w.spill? j.quota j.count s.store.freeCount = none →
        let d := (t.cage k).journal
        let rewrites := fun x : WorkRec => x.changed = true ∧ x.slot.isSome = true
        let isNew := fun x : WorkRec => x.slot = none
        let firstOf := fun (p : WorkRec → Prop) (n : Nat) =>
          (∃ x : WorkRec, w.records[n]? = some x ∧ p x) ∧
          ∀ (m : Nat) (x : WorkRec), m < n → w.records[m]? = some x → ¬p x
        d.slots.map t.recordIn = w.records.map WorkRec.record ∧
        d.segments.map List.length = (w.closed ++ [w.opened]).map List.length ∧
        d.slots.Nodup ∧ (∀ i ∈ d.slots, (SlotMem.read t.store.slots i).used = true) ∧
        (∀ i : Nat, i ∉ j.slots → (SlotMem.read s.store.slots i).used = true →
          i ∉ d.slots ∧ SlotMem.read t.store.slots i = SlotMem.read s.store.slots i) ∧
        (∃ n i : Nat,
          (firstOf rewrites n ∨ (∀ x ∈ w.records, ¬rewrites x) ∧ firstOf isNew n) ∧ d.slots[n]? = some i ∧
          (SlotMem.read t.store.slots i).syndrome = j.mask.getD 0 ∧ ∀ m ∈ d.slots, m ≠ i → t.clean m) ∧
        d = { j with closed := d.closed, opened := d.opened, mask := none
                     identity := j.identity.or (s.cage k).seq.lastIdentity } ∧
        t.store.checkValue = s.store.checkValue ∧
        cageBecomes k { s.cage k with journal := d } { s with store := t.store } t) ∧
      (∀ cause : SpillCause, w.spill? j.quota j.count s.store.freeCount = some cause →
        cageBecomes k { s.cage k with journal := { j with state := .spilled } }
          ({ s with notice := s.notice.submit (frameOf .spill (cageByte k) (BitVec.ofNat 8 cause.code)
              (BitVec.ofNat 8 (w.count / 256)) (BitVec.ofNat 8 w.count) 0 0) }.takeFault
            { kind := .spill, cage := some k, state := some shown, uptime := s.log.uptime,
              detail1 := BitVec.ofNat 16 cause.code, detail2 := BitVec.ofNat 16 w.count }) t))

/-! ## Every command -/

/-- A command addressed to a cage keeps every other cage, but for those that the Power Admission Unit admits from its list, and
the level of RESET_n, the installed profile, the uptime, the journal check value and the waiting commands as they were. -/
def Obligations.CommandsKeepToTheirCage : Prop :=
  ∀ (i : Instr) (k : CageId) (s t : State), Instr.cage? i = some k → exec i s = .next t →
    othersKept k s t ∧ t.lineReset = s.lineReset ∧ t.loader.profile = s.loader.profile ∧ t.log.uptime = s.log.uptime ∧
    t.store.checkValue = s.store.checkValue ∧ t.pending = s.pending

/-- Every step answers a next state and keeps the canonical form of the slot memory (the model's, log entry 5), the bounds of the
notice queue with its lost count, and those of the Fault Log with its saturating counts. -/
def Obligations.StepKeepsStoreAndQueues : Prop :=
  ∀ s : State, ∃ t : State, step s = .next t ∧
    (SlotMem.wf s.store.slots = true → SlotMem.wf t.store.slots = true) ∧
    (s.notice.bounded → t.notice.bounded) ∧ (s.log.bounded → t.log.bounded)

/-- Every step keeps the power rule: the committed draw is at most the budget, or at most one charge is of a nonzero draw.  That
charges of no draw are not counted is the model's reading (log entry 29). -/
def Obligations.StepKeepsPowerRule : Prop :=
  ∀ s t : State, s.power.sound → step s = .next t → t.power.sound

/-- Every step keeps the output levels: MRST_n and MLPW asserted in EMPTY and SETTLE but for an ADOPT-pending cage, and PINT_n
asserted only in LIVE, HELD and FAULTED while MINT_n stands. -/
def Obligations.StepKeepsOutputLevels : Prop :=
  ∀ s t : State, s.outputsSound → step s = .next t → t.outputsSound

/-- The state after reset meets every invariant that the steps keep. -/
def Obligations.ResetMeetsInvariants : Prop :=
  SlotMem.wf State.reset.store.slots = true ∧ State.reset.notice.bounded ∧ State.reset.log.bounded ∧
  State.reset.power.sound ∧ State.reset.outputsSound
end

