-- ==== Sys2Proof/Laws/State.lean ====
section
/-! SUPPORT. One lemma per field per update of the state, so that no proof unfolds a record update. -/

namespace Sys2Proof.Machine

/-! ## One cage -/

@[simp] theorem State.cage_modCage_same (s : State) (k : CageId) (f : Cage → Cage) :
    (s.modCage k f).cage k = f (s.cage k) := by
  simp [State.cage, State.modCage]

theorem State.cage_modCage_other (s : State) (k j : CageId) (f : Cage → Cage) (h : j ≠ k) :
    (s.modCage k f).cage j = s.cage j := by
  have : k.val ≠ j.val := fun e => h (Fin.ext e.symm)
  simp [State.cage, State.modCage, this]

theorem State.cage_congr {s t : State} (h : t.cages = s.cages) (k : CageId) : t.cage k = s.cage k := by
  simp [State.cage, h]

/-! ## State.modCage -/

@[simp] theorem State.modCage_channels (s : State) (k : CageId) (f : Cage → Cage) : (s.modCage k f).channels = s.channels := rfl
@[simp] theorem State.modCage_staged (s : State) (k : CageId) (f : Cage → Cage) : (s.modCage k f).staged = s.staged := rfl
@[simp] theorem State.modCage_power (s : State) (k : CageId) (f : Cage → Cage) : (s.modCage k f).power = s.power := rfl
@[simp] theorem State.modCage_store (s : State) (k : CageId) (f : Cage → Cage) : (s.modCage k f).store = s.store := rfl
@[simp] theorem State.modCage_log (s : State) (k : CageId) (f : Cage → Cage) : (s.modCage k f).log = s.log := rfl
@[simp] theorem State.modCage_loader (s : State) (k : CageId) (f : Cage → Cage) : (s.modCage k f).loader = s.loader := rfl
@[simp] theorem State.modCage_notice (s : State) (k : CageId) (f : Cage → Cage) : (s.modCage k f).notice = s.notice := rfl
@[simp] theorem State.modCage_pendingTiming (s : State) (k : CageId) (f : Cage → Cage) : (s.modCage k f).pendingTiming = s.pendingTiming := rfl
@[simp] theorem State.modCage_lineReset (s : State) (k : CageId) (f : Cage → Cage) : (s.modCage k f).lineReset = s.lineReset := rfl
@[simp] theorem State.modCage_pending (s : State) (k : CageId) (f : Cage → Cage) : (s.modCage k f).pending = s.pending := rfl

/-! ## State.modSeq -/

@[simp] theorem State.modSeq_channels (s : State) (k : CageId) (f : Seq → Seq) : (s.modSeq k f).channels = s.channels := rfl
@[simp] theorem State.modSeq_staged (s : State) (k : CageId) (f : Seq → Seq) : (s.modSeq k f).staged = s.staged := rfl
@[simp] theorem State.modSeq_power (s : State) (k : CageId) (f : Seq → Seq) : (s.modSeq k f).power = s.power := rfl
@[simp] theorem State.modSeq_store (s : State) (k : CageId) (f : Seq → Seq) : (s.modSeq k f).store = s.store := rfl
@[simp] theorem State.modSeq_log (s : State) (k : CageId) (f : Seq → Seq) : (s.modSeq k f).log = s.log := rfl
@[simp] theorem State.modSeq_loader (s : State) (k : CageId) (f : Seq → Seq) : (s.modSeq k f).loader = s.loader := rfl
@[simp] theorem State.modSeq_notice (s : State) (k : CageId) (f : Seq → Seq) : (s.modSeq k f).notice = s.notice := rfl
@[simp] theorem State.modSeq_pendingTiming (s : State) (k : CageId) (f : Seq → Seq) : (s.modSeq k f).pendingTiming = s.pendingTiming := rfl
@[simp] theorem State.modSeq_lineReset (s : State) (k : CageId) (f : Seq → Seq) : (s.modSeq k f).lineReset = s.lineReset := rfl
@[simp] theorem State.modSeq_pending (s : State) (k : CageId) (f : Seq → Seq) : (s.modSeq k f).pending = s.pending := rfl

/-! ## State.setTimer -/

@[simp] theorem State.setTimer_channels (s : State) (k : CageId) (t : PhaseTimer) : (s.setTimer k t).channels = s.channels := rfl
@[simp] theorem State.setTimer_staged (s : State) (k : CageId) (t : PhaseTimer) : (s.setTimer k t).staged = s.staged := rfl
@[simp] theorem State.setTimer_power (s : State) (k : CageId) (t : PhaseTimer) : (s.setTimer k t).power = s.power := rfl
@[simp] theorem State.setTimer_store (s : State) (k : CageId) (t : PhaseTimer) : (s.setTimer k t).store = s.store := rfl
@[simp] theorem State.setTimer_log (s : State) (k : CageId) (t : PhaseTimer) : (s.setTimer k t).log = s.log := rfl
@[simp] theorem State.setTimer_loader (s : State) (k : CageId) (t : PhaseTimer) : (s.setTimer k t).loader = s.loader := rfl
@[simp] theorem State.setTimer_notice (s : State) (k : CageId) (t : PhaseTimer) : (s.setTimer k t).notice = s.notice := rfl
@[simp] theorem State.setTimer_pendingTiming (s : State) (k : CageId) (t : PhaseTimer) : (s.setTimer k t).pendingTiming = s.pendingTiming := rfl
@[simp] theorem State.setTimer_lineReset (s : State) (k : CageId) (t : PhaseTimer) : (s.setTimer k t).lineReset = s.lineReset := rfl
@[simp] theorem State.setTimer_pending (s : State) (k : CageId) (t : PhaseTimer) : (s.setTimer k t).pending = s.pending := rfl

/-! ## State.modJournal -/

@[simp] theorem State.modJournal_channels (s : State) (k : CageId) (f : CageRecord → CageRecord) : (s.modJournal k f).channels = s.channels := rfl
@[simp] theorem State.modJournal_staged (s : State) (k : CageId) (f : CageRecord → CageRecord) : (s.modJournal k f).staged = s.staged := rfl
@[simp] theorem State.modJournal_power (s : State) (k : CageId) (f : CageRecord → CageRecord) : (s.modJournal k f).power = s.power := rfl
@[simp] theorem State.modJournal_store (s : State) (k : CageId) (f : CageRecord → CageRecord) : (s.modJournal k f).store = s.store := rfl
@[simp] theorem State.modJournal_log (s : State) (k : CageId) (f : CageRecord → CageRecord) : (s.modJournal k f).log = s.log := rfl
@[simp] theorem State.modJournal_loader (s : State) (k : CageId) (f : CageRecord → CageRecord) : (s.modJournal k f).loader = s.loader := rfl
@[simp] theorem State.modJournal_notice (s : State) (k : CageId) (f : CageRecord → CageRecord) : (s.modJournal k f).notice = s.notice := rfl
@[simp] theorem State.modJournal_pendingTiming (s : State) (k : CageId) (f : CageRecord → CageRecord) : (s.modJournal k f).pendingTiming = s.pendingTiming := rfl
@[simp] theorem State.modJournal_lineReset (s : State) (k : CageId) (f : CageRecord → CageRecord) : (s.modJournal k f).lineReset = s.lineReset := rfl
@[simp] theorem State.modJournal_pending (s : State) (k : CageId) (f : CageRecord → CageRecord) : (s.modJournal k f).pending = s.pending := rfl

/-! ## State.modGate -/

@[simp] theorem State.modGate_channels (s : State) (k : CageId) (f : Gate → Gate) : (s.modGate k f).channels = s.channels := rfl
@[simp] theorem State.modGate_staged (s : State) (k : CageId) (f : Gate → Gate) : (s.modGate k f).staged = s.staged := rfl
@[simp] theorem State.modGate_power (s : State) (k : CageId) (f : Gate → Gate) : (s.modGate k f).power = s.power := rfl
@[simp] theorem State.modGate_store (s : State) (k : CageId) (f : Gate → Gate) : (s.modGate k f).store = s.store := rfl
@[simp] theorem State.modGate_log (s : State) (k : CageId) (f : Gate → Gate) : (s.modGate k f).log = s.log := rfl
@[simp] theorem State.modGate_loader (s : State) (k : CageId) (f : Gate → Gate) : (s.modGate k f).loader = s.loader := rfl
@[simp] theorem State.modGate_notice (s : State) (k : CageId) (f : Gate → Gate) : (s.modGate k f).notice = s.notice := rfl
@[simp] theorem State.modGate_pendingTiming (s : State) (k : CageId) (f : Gate → Gate) : (s.modGate k f).pendingTiming = s.pendingTiming := rfl
@[simp] theorem State.modGate_lineReset (s : State) (k : CageId) (f : Gate → Gate) : (s.modGate k f).lineReset = s.lineReset := rfl
@[simp] theorem State.modGate_pending (s : State) (k : CageId) (f : Gate → Gate) : (s.modGate k f).pending = s.pending := rfl

/-! ## State.modBuffers -/

@[simp] theorem State.modBuffers_channels (s : State) (k : CageId) (f : Buffers → Buffers) : (s.modBuffers k f).channels = s.channels := rfl
@[simp] theorem State.modBuffers_staged (s : State) (k : CageId) (f : Buffers → Buffers) : (s.modBuffers k f).staged = s.staged := rfl
@[simp] theorem State.modBuffers_power (s : State) (k : CageId) (f : Buffers → Buffers) : (s.modBuffers k f).power = s.power := rfl
@[simp] theorem State.modBuffers_store (s : State) (k : CageId) (f : Buffers → Buffers) : (s.modBuffers k f).store = s.store := rfl
@[simp] theorem State.modBuffers_log (s : State) (k : CageId) (f : Buffers → Buffers) : (s.modBuffers k f).log = s.log := rfl
@[simp] theorem State.modBuffers_loader (s : State) (k : CageId) (f : Buffers → Buffers) : (s.modBuffers k f).loader = s.loader := rfl
@[simp] theorem State.modBuffers_notice (s : State) (k : CageId) (f : Buffers → Buffers) : (s.modBuffers k f).notice = s.notice := rfl
@[simp] theorem State.modBuffers_pendingTiming (s : State) (k : CageId) (f : Buffers → Buffers) : (s.modBuffers k f).pendingTiming = s.pendingTiming := rfl
@[simp] theorem State.modBuffers_lineReset (s : State) (k : CageId) (f : Buffers → Buffers) : (s.modBuffers k f).lineReset = s.lineReset := rfl
@[simp] theorem State.modBuffers_pending (s : State) (k : CageId) (f : Buffers → Buffers) : (s.modBuffers k f).pending = s.pending := rfl

/-! ## State.setSlot -/

@[simp] theorem State.setSlot_channels (s : State) (k : CageId) (d : Option Directive) : (s.setSlot k d).channels = s.channels := rfl
@[simp] theorem State.setSlot_staged (s : State) (k : CageId) (d : Option Directive) : (s.setSlot k d).staged = s.staged := rfl
@[simp] theorem State.setSlot_power (s : State) (k : CageId) (d : Option Directive) : (s.setSlot k d).power = s.power := rfl
@[simp] theorem State.setSlot_store (s : State) (k : CageId) (d : Option Directive) : (s.setSlot k d).store = s.store := rfl
@[simp] theorem State.setSlot_log (s : State) (k : CageId) (d : Option Directive) : (s.setSlot k d).log = s.log := rfl
@[simp] theorem State.setSlot_loader (s : State) (k : CageId) (d : Option Directive) : (s.setSlot k d).loader = s.loader := rfl
@[simp] theorem State.setSlot_notice (s : State) (k : CageId) (d : Option Directive) : (s.setSlot k d).notice = s.notice := rfl
@[simp] theorem State.setSlot_pendingTiming (s : State) (k : CageId) (d : Option Directive) : (s.setSlot k d).pendingTiming = s.pendingTiming := rfl
@[simp] theorem State.setSlot_lineReset (s : State) (k : CageId) (d : Option Directive) : (s.setSlot k d).lineReset = s.lineReset := rfl
@[simp] theorem State.setSlot_pending (s : State) (k : CageId) (d : Option Directive) : (s.setSlot k d).pending = s.pending := rfl

/-! ## State.count -/

@[simp] theorem State.count_channels (s : State) (k : CageId) (f : Counters → Counters) : (s.count k f).channels = s.channels := rfl
@[simp] theorem State.count_staged (s : State) (k : CageId) (f : Counters → Counters) : (s.count k f).staged = s.staged := rfl
@[simp] theorem State.count_power (s : State) (k : CageId) (f : Counters → Counters) : (s.count k f).power = s.power := rfl
@[simp] theorem State.count_store (s : State) (k : CageId) (f : Counters → Counters) : (s.count k f).store = s.store := rfl
@[simp] theorem State.count_log (s : State) (k : CageId) (f : Counters → Counters) : (s.count k f).log = s.log := rfl
@[simp] theorem State.count_loader (s : State) (k : CageId) (f : Counters → Counters) : (s.count k f).loader = s.loader := rfl
@[simp] theorem State.count_notice (s : State) (k : CageId) (f : Counters → Counters) : (s.count k f).notice = s.notice := rfl
@[simp] theorem State.count_pendingTiming (s : State) (k : CageId) (f : Counters → Counters) : (s.count k f).pendingTiming = s.pendingTiming := rfl
@[simp] theorem State.count_lineReset (s : State) (k : CageId) (f : Counters → Counters) : (s.count k f).lineReset = s.lineReset := rfl
@[simp] theorem State.count_pending (s : State) (k : CageId) (f : Counters → Counters) : (s.count k f).pending = s.pending := rfl

/-! ## State.enter -/

@[simp] theorem State.enter_channels (s : State) (k : CageId) (st : CageState) : (s.enter k st).channels = s.channels := rfl
@[simp] theorem State.enter_staged (s : State) (k : CageId) (st : CageState) : (s.enter k st).staged = s.staged := rfl
@[simp] theorem State.enter_power (s : State) (k : CageId) (st : CageState) : (s.enter k st).power = s.power := rfl
@[simp] theorem State.enter_store (s : State) (k : CageId) (st : CageState) : (s.enter k st).store = s.store := rfl
@[simp] theorem State.enter_log (s : State) (k : CageId) (st : CageState) : (s.enter k st).log = s.log := rfl
@[simp] theorem State.enter_loader (s : State) (k : CageId) (st : CageState) : (s.enter k st).loader = s.loader := rfl
@[simp] theorem State.enter_notice (s : State) (k : CageId) (st : CageState) : (s.enter k st).notice = s.notice := rfl
@[simp] theorem State.enter_pendingTiming (s : State) (k : CageId) (st : CageState) : (s.enter k st).pendingTiming = s.pendingTiming := rfl
@[simp] theorem State.enter_lineReset (s : State) (k : CageId) (st : CageState) : (s.enter k st).lineReset = s.lineReset := rfl
@[simp] theorem State.enter_pending (s : State) (k : CageId) (st : CageState) : (s.enter k st).pending = s.pending := rfl

/-! ## State.reach -/

@[simp] theorem State.reach_channels (s : State) (k : CageId) (v : Nat) : (s.reach k v).channels = s.channels := rfl
@[simp] theorem State.reach_staged (s : State) (k : CageId) (v : Nat) : (s.reach k v).staged = s.staged := rfl
@[simp] theorem State.reach_power (s : State) (k : CageId) (v : Nat) : (s.reach k v).power = s.power := rfl
@[simp] theorem State.reach_store (s : State) (k : CageId) (v : Nat) : (s.reach k v).store = s.store := rfl
@[simp] theorem State.reach_log (s : State) (k : CageId) (v : Nat) : (s.reach k v).log = s.log := rfl
@[simp] theorem State.reach_loader (s : State) (k : CageId) (v : Nat) : (s.reach k v).loader = s.loader := rfl
@[simp] theorem State.reach_notice (s : State) (k : CageId) (v : Nat) : (s.reach k v).notice = s.notice := rfl
@[simp] theorem State.reach_pendingTiming (s : State) (k : CageId) (v : Nat) : (s.reach k v).pendingTiming = s.pendingTiming := rfl
@[simp] theorem State.reach_lineReset (s : State) (k : CageId) (v : Nat) : (s.reach k v).lineReset = s.lineReset := rfl
@[simp] theorem State.reach_pending (s : State) (k : CageId) (v : Nat) : (s.reach k v).pending = s.pending := rfl

/-! ## State.idleTimer -/

@[simp] theorem State.idleTimer_channels (s : State) (k : CageId) : (s.idleTimer k).channels = s.channels := rfl
@[simp] theorem State.idleTimer_staged (s : State) (k : CageId) : (s.idleTimer k).staged = s.staged := rfl
@[simp] theorem State.idleTimer_power (s : State) (k : CageId) : (s.idleTimer k).power = s.power := rfl
@[simp] theorem State.idleTimer_store (s : State) (k : CageId) : (s.idleTimer k).store = s.store := rfl
@[simp] theorem State.idleTimer_log (s : State) (k : CageId) : (s.idleTimer k).log = s.log := rfl
@[simp] theorem State.idleTimer_loader (s : State) (k : CageId) : (s.idleTimer k).loader = s.loader := rfl
@[simp] theorem State.idleTimer_notice (s : State) (k : CageId) : (s.idleTimer k).notice = s.notice := rfl
@[simp] theorem State.idleTimer_pendingTiming (s : State) (k : CageId) : (s.idleTimer k).pendingTiming = s.pendingTiming := rfl
@[simp] theorem State.idleTimer_lineReset (s : State) (k : CageId) : (s.idleTimer k).lineReset = s.lineReset := rfl
@[simp] theorem State.idleTimer_pending (s : State) (k : CageId) : (s.idleTimer k).pending = s.pending := rfl

/-! ## State.startWait -/

@[simp] theorem State.startWait_channels (s : State) (k : CageId) : (s.startWait k).channels = s.channels := rfl
@[simp] theorem State.startWait_staged (s : State) (k : CageId) : (s.startWait k).staged = s.staged := rfl
@[simp] theorem State.startWait_power (s : State) (k : CageId) : (s.startWait k).power = s.power := rfl
@[simp] theorem State.startWait_store (s : State) (k : CageId) : (s.startWait k).store = s.store := rfl
@[simp] theorem State.startWait_log (s : State) (k : CageId) : (s.startWait k).log = s.log := rfl
@[simp] theorem State.startWait_loader (s : State) (k : CageId) : (s.startWait k).loader = s.loader := rfl
@[simp] theorem State.startWait_notice (s : State) (k : CageId) : (s.startWait k).notice = s.notice := rfl
@[simp] theorem State.startWait_pendingTiming (s : State) (k : CageId) : (s.startWait k).pendingTiming = s.pendingTiming := rfl
@[simp] theorem State.startWait_lineReset (s : State) (k : CageId) : (s.startWait k).lineReset = s.lineReset := rfl
@[simp] theorem State.startWait_pending (s : State) (k : CageId) : (s.startWait k).pending = s.pending := rfl

/-! ## State.stopSeqWork -/

@[simp] theorem State.stopSeqWork_channels (s : State) (k : CageId) (x : Option Trans) : (s.stopSeqWork k x).channels = s.channels := rfl
@[simp] theorem State.stopSeqWork_staged (s : State) (k : CageId) (x : Option Trans) : (s.stopSeqWork k x).staged = s.staged := rfl
@[simp] theorem State.stopSeqWork_power (s : State) (k : CageId) (x : Option Trans) : (s.stopSeqWork k x).power = s.power := rfl
@[simp] theorem State.stopSeqWork_store (s : State) (k : CageId) (x : Option Trans) : (s.stopSeqWork k x).store = s.store := rfl
@[simp] theorem State.stopSeqWork_log (s : State) (k : CageId) (x : Option Trans) : (s.stopSeqWork k x).log = s.log := rfl
@[simp] theorem State.stopSeqWork_loader (s : State) (k : CageId) (x : Option Trans) : (s.stopSeqWork k x).loader = s.loader := rfl
@[simp] theorem State.stopSeqWork_notice (s : State) (k : CageId) (x : Option Trans) : (s.stopSeqWork k x).notice = s.notice := rfl
@[simp] theorem State.stopSeqWork_pendingTiming (s : State) (k : CageId) (x : Option Trans) : (s.stopSeqWork k x).pendingTiming = s.pendingTiming := rfl
@[simp] theorem State.stopSeqWork_lineReset (s : State) (k : CageId) (x : Option Trans) : (s.stopSeqWork k x).lineReset = s.lineReset := rfl
@[simp] theorem State.stopSeqWork_pending (s : State) (k : CageId) (x : Option Trans) : (s.stopSeqWork k x).pending = s.pending := rfl

/-! ## State.resumeSeq -/

@[simp] theorem State.resumeSeq_channels (s : State) (k : CageId) : (s.resumeSeq k).channels = s.channels := rfl
@[simp] theorem State.resumeSeq_staged (s : State) (k : CageId) : (s.resumeSeq k).staged = s.staged := rfl
@[simp] theorem State.resumeSeq_power (s : State) (k : CageId) : (s.resumeSeq k).power = s.power := rfl
@[simp] theorem State.resumeSeq_store (s : State) (k : CageId) : (s.resumeSeq k).store = s.store := rfl
@[simp] theorem State.resumeSeq_log (s : State) (k : CageId) : (s.resumeSeq k).log = s.log := rfl
@[simp] theorem State.resumeSeq_loader (s : State) (k : CageId) : (s.resumeSeq k).loader = s.loader := rfl
@[simp] theorem State.resumeSeq_notice (s : State) (k : CageId) : (s.resumeSeq k).notice = s.notice := rfl
@[simp] theorem State.resumeSeq_pendingTiming (s : State) (k : CageId) : (s.resumeSeq k).pendingTiming = s.pendingTiming := rfl
@[simp] theorem State.resumeSeq_lineReset (s : State) (k : CageId) : (s.resumeSeq k).lineReset = s.lineReset := rfl
@[simp] theorem State.resumeSeq_pending (s : State) (k : CageId) : (s.resumeSeq k).pending = s.pending := rfl

/-! ## State.toLive -/

@[simp] theorem State.toLive_channels (s : State) (k : CageId) : (s.toLive k).channels = s.channels := rfl
@[simp] theorem State.toLive_staged (s : State) (k : CageId) : (s.toLive k).staged = s.staged := rfl
@[simp] theorem State.toLive_power (s : State) (k : CageId) : (s.toLive k).power = s.power := rfl
@[simp] theorem State.toLive_store (s : State) (k : CageId) : (s.toLive k).store = s.store := rfl
@[simp] theorem State.toLive_log (s : State) (k : CageId) : (s.toLive k).log = s.log := rfl
@[simp] theorem State.toLive_loader (s : State) (k : CageId) : (s.toLive k).loader = s.loader := rfl
@[simp] theorem State.toLive_notice (s : State) (k : CageId) : (s.toLive k).notice = s.notice := rfl
@[simp] theorem State.toLive_pendingTiming (s : State) (k : CageId) : (s.toLive k).pendingTiming = s.pendingTiming := rfl
@[simp] theorem State.toLive_lineReset (s : State) (k : CageId) : (s.toLive k).lineReset = s.lineReset := rfl
@[simp] theorem State.toLive_pending (s : State) (k : CageId) : (s.toLive k).pending = s.pending := rfl

/-! ## State.modChannel -/

@[simp] theorem State.modChannel_cages (s : State) (c : Fin 4) (f : Channel → Channel) : (s.modChannel c f).cages = s.cages := rfl
@[simp] theorem State.modChannel_staged (s : State) (c : Fin 4) (f : Channel → Channel) : (s.modChannel c f).staged = s.staged := rfl
@[simp] theorem State.modChannel_power (s : State) (c : Fin 4) (f : Channel → Channel) : (s.modChannel c f).power = s.power := rfl
@[simp] theorem State.modChannel_store (s : State) (c : Fin 4) (f : Channel → Channel) : (s.modChannel c f).store = s.store := rfl
@[simp] theorem State.modChannel_log (s : State) (c : Fin 4) (f : Channel → Channel) : (s.modChannel c f).log = s.log := rfl
@[simp] theorem State.modChannel_loader (s : State) (c : Fin 4) (f : Channel → Channel) : (s.modChannel c f).loader = s.loader := rfl
@[simp] theorem State.modChannel_notice (s : State) (c : Fin 4) (f : Channel → Channel) : (s.modChannel c f).notice = s.notice := rfl
@[simp] theorem State.modChannel_pendingTiming (s : State) (c : Fin 4) (f : Channel → Channel) : (s.modChannel c f).pendingTiming = s.pendingTiming := rfl
@[simp] theorem State.modChannel_lineReset (s : State) (c : Fin 4) (f : Channel → Channel) : (s.modChannel c f).lineReset = s.lineReset := rfl
@[simp] theorem State.modChannel_pending (s : State) (c : Fin 4) (f : Channel → Channel) : (s.modChannel c f).pending = s.pending := rfl
@[simp] theorem State.modChannel_cage (s : State) (c : Fin 4) (f : Channel → Channel) (j : CageId) : (s.modChannel c f).cage j = s.cage j := rfl

/-! ## State.setCtx -/

@[simp] theorem State.setCtx_cages (s : State) (c : Fin 4) (x : ChannelCtx) : (s.setCtx c x).cages = s.cages := rfl
@[simp] theorem State.setCtx_staged (s : State) (c : Fin 4) (x : ChannelCtx) : (s.setCtx c x).staged = s.staged := rfl
@[simp] theorem State.setCtx_power (s : State) (c : Fin 4) (x : ChannelCtx) : (s.setCtx c x).power = s.power := rfl
@[simp] theorem State.setCtx_store (s : State) (c : Fin 4) (x : ChannelCtx) : (s.setCtx c x).store = s.store := rfl
@[simp] theorem State.setCtx_log (s : State) (c : Fin 4) (x : ChannelCtx) : (s.setCtx c x).log = s.log := rfl
@[simp] theorem State.setCtx_loader (s : State) (c : Fin 4) (x : ChannelCtx) : (s.setCtx c x).loader = s.loader := rfl
@[simp] theorem State.setCtx_notice (s : State) (c : Fin 4) (x : ChannelCtx) : (s.setCtx c x).notice = s.notice := rfl
@[simp] theorem State.setCtx_pendingTiming (s : State) (c : Fin 4) (x : ChannelCtx) : (s.setCtx c x).pendingTiming = s.pendingTiming := rfl
@[simp] theorem State.setCtx_lineReset (s : State) (c : Fin 4) (x : ChannelCtx) : (s.setCtx c x).lineReset = s.lineReset := rfl
@[simp] theorem State.setCtx_pending (s : State) (c : Fin 4) (x : ChannelCtx) : (s.setCtx c x).pending = s.pending := rfl
@[simp] theorem State.setCtx_cage (s : State) (c : Fin 4) (x : ChannelCtx) (j : CageId) : (s.setCtx c x).cage j = s.cage j := rfl

/-! ## State.startDelay -/

@[simp] theorem State.startDelay_cages (s : State) (c : Fin 4) : (s.startDelay c).cages = s.cages := rfl
@[simp] theorem State.startDelay_staged (s : State) (c : Fin 4) : (s.startDelay c).staged = s.staged := rfl
@[simp] theorem State.startDelay_power (s : State) (c : Fin 4) : (s.startDelay c).power = s.power := rfl
@[simp] theorem State.startDelay_store (s : State) (c : Fin 4) : (s.startDelay c).store = s.store := rfl
@[simp] theorem State.startDelay_log (s : State) (c : Fin 4) : (s.startDelay c).log = s.log := rfl
@[simp] theorem State.startDelay_loader (s : State) (c : Fin 4) : (s.startDelay c).loader = s.loader := rfl
@[simp] theorem State.startDelay_notice (s : State) (c : Fin 4) : (s.startDelay c).notice = s.notice := rfl
@[simp] theorem State.startDelay_pendingTiming (s : State) (c : Fin 4) : (s.startDelay c).pendingTiming = s.pendingTiming := rfl
@[simp] theorem State.startDelay_lineReset (s : State) (c : Fin 4) : (s.startDelay c).lineReset = s.lineReset := rfl
@[simp] theorem State.startDelay_pending (s : State) (c : Fin 4) : (s.startDelay c).pending = s.pending := rfl
@[simp] theorem State.startDelay_cage (s : State) (c : Fin 4) (j : CageId) : (s.startDelay c).cage j = s.cage j := rfl

/-! ## State.releaseChannel -/

@[simp] theorem State.releaseChannel_cages (s : State) (c : Fin 4) : (s.releaseChannel c).cages = s.cages := rfl
@[simp] theorem State.releaseChannel_staged (s : State) (c : Fin 4) : (s.releaseChannel c).staged = s.staged := rfl
@[simp] theorem State.releaseChannel_power (s : State) (c : Fin 4) : (s.releaseChannel c).power = s.power := rfl
@[simp] theorem State.releaseChannel_store (s : State) (c : Fin 4) : (s.releaseChannel c).store = s.store := rfl
@[simp] theorem State.releaseChannel_log (s : State) (c : Fin 4) : (s.releaseChannel c).log = s.log := rfl
@[simp] theorem State.releaseChannel_loader (s : State) (c : Fin 4) : (s.releaseChannel c).loader = s.loader := rfl
@[simp] theorem State.releaseChannel_notice (s : State) (c : Fin 4) : (s.releaseChannel c).notice = s.notice := rfl
@[simp] theorem State.releaseChannel_pendingTiming (s : State) (c : Fin 4) : (s.releaseChannel c).pendingTiming = s.pendingTiming := rfl
@[simp] theorem State.releaseChannel_lineReset (s : State) (c : Fin 4) : (s.releaseChannel c).lineReset = s.lineReset := rfl
@[simp] theorem State.releaseChannel_pending (s : State) (c : Fin 4) : (s.releaseChannel c).pending = s.pending := rfl
@[simp] theorem State.releaseChannel_cage (s : State) (c : Fin 4) (j : CageId) : (s.releaseChannel c).cage j = s.cage j := rfl

/-! ## State.leaveStaged -/

@[simp] theorem State.leaveStaged_cages (s : State) (k : CageId) : (s.leaveStaged k).cages = s.cages := rfl
@[simp] theorem State.leaveStaged_channels (s : State) (k : CageId) : (s.leaveStaged k).channels = s.channels := rfl
@[simp] theorem State.leaveStaged_power (s : State) (k : CageId) : (s.leaveStaged k).power = s.power := rfl
@[simp] theorem State.leaveStaged_store (s : State) (k : CageId) : (s.leaveStaged k).store = s.store := rfl
@[simp] theorem State.leaveStaged_log (s : State) (k : CageId) : (s.leaveStaged k).log = s.log := rfl
@[simp] theorem State.leaveStaged_loader (s : State) (k : CageId) : (s.leaveStaged k).loader = s.loader := rfl
@[simp] theorem State.leaveStaged_notice (s : State) (k : CageId) : (s.leaveStaged k).notice = s.notice := rfl
@[simp] theorem State.leaveStaged_pendingTiming (s : State) (k : CageId) : (s.leaveStaged k).pendingTiming = s.pendingTiming := rfl
@[simp] theorem State.leaveStaged_lineReset (s : State) (k : CageId) : (s.leaveStaged k).lineReset = s.lineReset := rfl
@[simp] theorem State.leaveStaged_pending (s : State) (k : CageId) : (s.leaveStaged k).pending = s.pending := rfl
@[simp] theorem State.leaveStaged_cage (s : State) (k : CageId) (j : CageId) : (s.leaveStaged k).cage j = s.cage j := rfl

/-! ## State.setLog -/

@[simp] theorem State.setLog_cages (s : State) (l : FaultLog) : (s.setLog l).cages = s.cages := rfl
@[simp] theorem State.setLog_channels (s : State) (l : FaultLog) : (s.setLog l).channels = s.channels := rfl
@[simp] theorem State.setLog_staged (s : State) (l : FaultLog) : (s.setLog l).staged = s.staged := rfl
@[simp] theorem State.setLog_power (s : State) (l : FaultLog) : (s.setLog l).power = s.power := rfl
@[simp] theorem State.setLog_store (s : State) (l : FaultLog) : (s.setLog l).store = s.store := rfl
@[simp] theorem State.setLog_loader (s : State) (l : FaultLog) : (s.setLog l).loader = s.loader := rfl
@[simp] theorem State.setLog_notice (s : State) (l : FaultLog) : (s.setLog l).notice = s.notice := rfl
@[simp] theorem State.setLog_pendingTiming (s : State) (l : FaultLog) : (s.setLog l).pendingTiming = s.pendingTiming := rfl
@[simp] theorem State.setLog_lineReset (s : State) (l : FaultLog) : (s.setLog l).lineReset = s.lineReset := rfl
@[simp] theorem State.setLog_pending (s : State) (l : FaultLog) : (s.setLog l).pending = s.pending := rfl
@[simp] theorem State.setLog_cage (s : State) (l : FaultLog) (j : CageId) : (s.setLog l).cage j = s.cage j := rfl

/-! ## State.modPower -/

@[simp] theorem State.modPower_cages (s : State) (f : Power → Power) : (s.modPower f).cages = s.cages := rfl
@[simp] theorem State.modPower_channels (s : State) (f : Power → Power) : (s.modPower f).channels = s.channels := rfl
@[simp] theorem State.modPower_staged (s : State) (f : Power → Power) : (s.modPower f).staged = s.staged := rfl
@[simp] theorem State.modPower_store (s : State) (f : Power → Power) : (s.modPower f).store = s.store := rfl
@[simp] theorem State.modPower_log (s : State) (f : Power → Power) : (s.modPower f).log = s.log := rfl
@[simp] theorem State.modPower_loader (s : State) (f : Power → Power) : (s.modPower f).loader = s.loader := rfl
@[simp] theorem State.modPower_notice (s : State) (f : Power → Power) : (s.modPower f).notice = s.notice := rfl
@[simp] theorem State.modPower_pendingTiming (s : State) (f : Power → Power) : (s.modPower f).pendingTiming = s.pendingTiming := rfl
@[simp] theorem State.modPower_lineReset (s : State) (f : Power → Power) : (s.modPower f).lineReset = s.lineReset := rfl
@[simp] theorem State.modPower_pending (s : State) (f : Power → Power) : (s.modPower f).pending = s.pending := rfl
@[simp] theorem State.modPower_cage (s : State) (f : Power → Power) (j : CageId) : (s.modPower f).cage j = s.cage j := rfl

/-! ## State.modSlots -/

@[simp] theorem State.modSlots_cages (s : State) (f : SlotMem → SlotMem) : (s.modSlots f).cages = s.cages := rfl
@[simp] theorem State.modSlots_channels (s : State) (f : SlotMem → SlotMem) : (s.modSlots f).channels = s.channels := rfl
@[simp] theorem State.modSlots_staged (s : State) (f : SlotMem → SlotMem) : (s.modSlots f).staged = s.staged := rfl
@[simp] theorem State.modSlots_power (s : State) (f : SlotMem → SlotMem) : (s.modSlots f).power = s.power := rfl
@[simp] theorem State.modSlots_log (s : State) (f : SlotMem → SlotMem) : (s.modSlots f).log = s.log := rfl
@[simp] theorem State.modSlots_loader (s : State) (f : SlotMem → SlotMem) : (s.modSlots f).loader = s.loader := rfl
@[simp] theorem State.modSlots_notice (s : State) (f : SlotMem → SlotMem) : (s.modSlots f).notice = s.notice := rfl
@[simp] theorem State.modSlots_pendingTiming (s : State) (f : SlotMem → SlotMem) : (s.modSlots f).pendingTiming = s.pendingTiming := rfl
@[simp] theorem State.modSlots_lineReset (s : State) (f : SlotMem → SlotMem) : (s.modSlots f).lineReset = s.lineReset := rfl
@[simp] theorem State.modSlots_pending (s : State) (f : SlotMem → SlotMem) : (s.modSlots f).pending = s.pending := rfl
@[simp] theorem State.modSlots_cage (s : State) (f : SlotMem → SlotMem) (j : CageId) : (s.modSlots f).cage j = s.cage j := rfl

/-! ## The changed field -/

@[simp] theorem State.modPower_power (s : State) (f : Power → Power) : (s.modPower f).power = f s.power := rfl

@[simp] theorem State.setLog_log (s : State) (l : FaultLog) : (s.setLog l).log = l := rfl

@[simp] theorem State.modSlots_slots (s : State) (f : SlotMem → SlotMem) :
    (s.modSlots f).store.slots = f s.store.slots := rfl

@[simp] theorem State.modSlots_checkValue (s : State) (f : SlotMem → SlotMem) :
    (s.modSlots f).store.checkValue = s.store.checkValue := rfl

@[simp] theorem State.leaveStaged_staged (s : State) (k : CageId) :
    (s.leaveStaged k).staged = s.staged.filter fun j => j ≠ k := rfl

@[simp] theorem State.modSeq_cage_same (s : State) (k : CageId) (f : Seq → Seq) :
    (s.modSeq k f).cage k = { s.cage k with seq := f (s.cage k).seq } := by simp [State.modSeq]

@[simp] theorem State.setTimer_cage_same (s : State) (k : CageId) (t : PhaseTimer) :
    (s.setTimer k t).cage k = { s.cage k with timer := t } := by simp [State.setTimer]

@[simp] theorem State.modJournal_cage_same (s : State) (k : CageId) (f : CageRecord → CageRecord) :
    (s.modJournal k f).cage k = { s.cage k with journal := f (s.cage k).journal } := by simp [State.modJournal]

@[simp] theorem State.modGate_cage_same (s : State) (k : CageId) (f : Gate → Gate) :
    (s.modGate k f).cage k = { s.cage k with gate := f (s.cage k).gate } := by simp [State.modGate]

@[simp] theorem State.modBuffers_cage_same (s : State) (k : CageId) (f : Buffers → Buffers) :
    (s.modBuffers k f).cage k = { s.cage k with buffers := f (s.cage k).buffers } := by simp [State.modBuffers]

@[simp] theorem State.setSlot_cage_same (s : State) (k : CageId) (d : Option Directive) :
    (s.setSlot k d).cage k = { s.cage k with slot := d } := by simp [State.setSlot]

@[simp] theorem State.count_cage_same (s : State) (k : CageId) (f : Counters → Counters) :
    (s.count k f).cage k =
      { s.cage k with seq := { (s.cage k).seq with counters := f (s.cage k).seq.counters } } := by
  simp [State.count]

@[simp] theorem State.enter_cage_same (s : State) (k : CageId) (st : CageState) :
    (s.enter k st).cage k =
      { s.cage k with seq := (s.cage k).seq.enter s.profile.policy (s.cage k).mint st } := by
  simp [State.enter]

@[simp] theorem State.reach_cage_same (s : State) (k : CageId) (v : Nat) :
    (s.reach k v).cage k =
      { s.cage k with timer := { (s.cage k).timer with elapsed := max (s.cage k).timer.elapsed v } } := by
  simp [State.reach]

@[simp] theorem State.idleTimer_cage_same (s : State) (k : CageId) :
    (s.idleTimer k).cage k =
      { s.cage k with
        timer := { (s.cage k).timer with use := .idle }
        seq := { (s.cage k).seq with attempt := none, due := .none, ret := none, started := false } } := by
  simp [State.idleTimer]

@[simp] theorem State.modChannel_same (s : State) (c : Fin 4) (f : Channel → Channel) :
    (s.modChannel c f).channels[c.val] = f s.channels[c.val] := by
  simp [State.modChannel]

theorem State.modChannel_other (s : State) (c d : Fin 4) (f : Channel → Channel) (h : d ≠ c) :
    (s.modChannel c f).channels[d.val] = s.channels[d.val] := by
  have : c.val ≠ d.val := fun e => h (Fin.ext e.symm)
  simp [State.modChannel, this]

@[simp] theorem State.setCtx_same (s : State) (c : Fin 4) (x : ChannelCtx) :
    (s.setCtx c x).channels[c.val] = { s.channels[c.val] with ctx := some x } := State.modChannel_same s c _

@[simp] theorem State.startDelay_same (s : State) (c : Fin 4) :
    (s.startDelay c).channels[c.val] = { s.channels[c.val] with delayRunning := true, delay := 0 } := State.modChannel_same s c _

@[simp] theorem State.releaseChannel_same (s : State) (c : Fin 4) :
    (s.releaseChannel c).channels[c.val] = { s.channels[c.val] with ctx := none, delayRunning := false, delay := 0 } :=
  State.modChannel_same s c _

/-! ## Notices and faults -/

@[simp] theorem State.submit_cages (s : State) (f : Frame) :
    (s.submit f).cages = s.cages := rfl
@[simp] theorem State.submit_channels (s : State) (f : Frame) :
    (s.submit f).channels = s.channels := rfl
@[simp] theorem State.submit_staged (s : State) (f : Frame) :
    (s.submit f).staged = s.staged := rfl
@[simp] theorem State.submit_power (s : State) (f : Frame) :
    (s.submit f).power = s.power := rfl
@[simp] theorem State.submit_store (s : State) (f : Frame) :
    (s.submit f).store = s.store := rfl
@[simp] theorem State.submit_log (s : State) (f : Frame) :
    (s.submit f).log = s.log := rfl
@[simp] theorem State.submit_loader (s : State) (f : Frame) :
    (s.submit f).loader = s.loader := rfl
@[simp] theorem State.submit_pendingTiming (s : State) (f : Frame) :
    (s.submit f).pendingTiming = s.pendingTiming := rfl
@[simp] theorem State.submit_lineReset (s : State) (f : Frame) :
    (s.submit f).lineReset = s.lineReset := rfl
@[simp] theorem State.submit_pending (s : State) (f : Frame) :
    (s.submit f).pending = s.pending := rfl
@[simp] theorem State.submit_cage (s : State) (f : Frame) (j : CageId) :
    (s.submit f).cage j = s.cage j := rfl
@[simp] theorem State.submitAll_cages (s : State) (fs : List Frame) :
    (s.submitAll fs).cages = s.cages := rfl
@[simp] theorem State.submitAll_channels (s : State) (fs : List Frame) :
    (s.submitAll fs).channels = s.channels := rfl
@[simp] theorem State.submitAll_staged (s : State) (fs : List Frame) :
    (s.submitAll fs).staged = s.staged := rfl
@[simp] theorem State.submitAll_power (s : State) (fs : List Frame) :
    (s.submitAll fs).power = s.power := rfl
@[simp] theorem State.submitAll_store (s : State) (fs : List Frame) :
    (s.submitAll fs).store = s.store := rfl
@[simp] theorem State.submitAll_log (s : State) (fs : List Frame) :
    (s.submitAll fs).log = s.log := rfl
@[simp] theorem State.submitAll_loader (s : State) (fs : List Frame) :
    (s.submitAll fs).loader = s.loader := rfl
@[simp] theorem State.submitAll_pendingTiming (s : State) (fs : List Frame) :
    (s.submitAll fs).pendingTiming = s.pendingTiming := rfl
@[simp] theorem State.submitAll_lineReset (s : State) (fs : List Frame) :
    (s.submitAll fs).lineReset = s.lineReset := rfl
@[simp] theorem State.submitAll_pending (s : State) (fs : List Frame) :
    (s.submitAll fs).pending = s.pending := rfl
@[simp] theorem State.submitAll_cage (s : State) (fs : List Frame) (j : CageId) :
    (s.submitAll fs).cage j = s.cage j := rfl
@[simp] theorem State.takeFault_cages (s : State) (e : FaultEntry) :
    (s.takeFault e).cages = s.cages := rfl
@[simp] theorem State.takeFault_channels (s : State) (e : FaultEntry) :
    (s.takeFault e).channels = s.channels := rfl
@[simp] theorem State.takeFault_staged (s : State) (e : FaultEntry) :
    (s.takeFault e).staged = s.staged := rfl
@[simp] theorem State.takeFault_power (s : State) (e : FaultEntry) :
    (s.takeFault e).power = s.power := rfl
@[simp] theorem State.takeFault_store (s : State) (e : FaultEntry) :
    (s.takeFault e).store = s.store := rfl
@[simp] theorem State.takeFault_loader (s : State) (e : FaultEntry) :
    (s.takeFault e).loader = s.loader := rfl
@[simp] theorem State.takeFault_pendingTiming (s : State) (e : FaultEntry) :
    (s.takeFault e).pendingTiming = s.pendingTiming := rfl
@[simp] theorem State.takeFault_lineReset (s : State) (e : FaultEntry) :
    (s.takeFault e).lineReset = s.lineReset := rfl
@[simp] theorem State.takeFault_pending (s : State) (e : FaultEntry) :
    (s.takeFault e).pending = s.pending := rfl
@[simp] theorem State.takeFault_cage (s : State) (e : FaultEntry) (j : CageId) :
    (s.takeFault e).cage j = s.cage j := rfl
@[simp] theorem State.logFault_cages (s : State) (n : FaultKind) (c : Option CageId) (d1 d2 : Nat) :
    (s.logFault n c d1 d2).cages = s.cages := rfl
@[simp] theorem State.logFault_channels (s : State) (n : FaultKind) (c : Option CageId) (d1 d2 : Nat) :
    (s.logFault n c d1 d2).channels = s.channels := rfl
@[simp] theorem State.logFault_staged (s : State) (n : FaultKind) (c : Option CageId) (d1 d2 : Nat) :
    (s.logFault n c d1 d2).staged = s.staged := rfl
@[simp] theorem State.logFault_power (s : State) (n : FaultKind) (c : Option CageId) (d1 d2 : Nat) :
    (s.logFault n c d1 d2).power = s.power := rfl
@[simp] theorem State.logFault_store (s : State) (n : FaultKind) (c : Option CageId) (d1 d2 : Nat) :
    (s.logFault n c d1 d2).store = s.store := rfl
@[simp] theorem State.logFault_loader (s : State) (n : FaultKind) (c : Option CageId) (d1 d2 : Nat) :
    (s.logFault n c d1 d2).loader = s.loader := rfl
@[simp] theorem State.logFault_pendingTiming (s : State) (n : FaultKind) (c : Option CageId) (d1 d2 : Nat) :
    (s.logFault n c d1 d2).pendingTiming = s.pendingTiming := rfl
@[simp] theorem State.logFault_lineReset (s : State) (n : FaultKind) (c : Option CageId) (d1 d2 : Nat) :
    (s.logFault n c d1 d2).lineReset = s.lineReset := rfl
@[simp] theorem State.logFault_pending (s : State) (n : FaultKind) (c : Option CageId) (d1 d2 : Nat) :
    (s.logFault n c d1 d2).pending = s.pending := rfl
@[simp] theorem State.logFault_cage (s : State) (n : FaultKind) (c : Option CageId) (d1 d2 : Nat) (j : CageId) :
    (s.logFault n c d1 d2).cage j = s.cage j := rfl
@[simp] theorem State.submit_notice (s : State) (f : Frame) : (s.submit f).notice = s.notice.submit f := rfl
@[simp] theorem State.submitAll_notice (s : State) (fs : List Frame) :
    (s.submitAll fs).notice = fs.foldl NoticePort.submit s.notice := rfl
@[simp] theorem State.takeFault_notice (s : State) (e : FaultEntry) :
    (s.takeFault e).notice = s.notice.submit (faultFrame e) := rfl
@[simp] theorem State.takeFault_log (s : State) (e : FaultEntry) : (s.takeFault e).log = s.log.take e := rfl

/-! ## The flash port of the loader (R201) -/

@[simp] theorem Loader.begin_profile (l : Loader) (t : Trigger) : (l.begin t).profile = l.profile := rfl
@[simp] theorem Loader.begin_outcome (l : Loader) (t : Trigger) : (l.begin t).outcome = l.outcome := rfl
@[simp] theorem Loader.begin_check (l : Loader) (t : Trigger) : (l.begin t).check = l.check := rfl
@[simp] theorem Loader.begin_load (l : Loader) (t : Trigger) : (l.begin t).load = some t := rfl
@[simp] theorem Loader.begin_flash (l : Loader) (t : Trigger) : (l.begin t).flash = FlashPort.begun := rfl
@[simp] theorem Loader.begin_everLoaded (l : Loader) (t : Trigger) : (l.begin t).everLoaded = l.everLoaded := rfl
@[simp] theorem Loader.abandon_profile (l : Loader) : l.abandon.profile = l.profile := rfl
@[simp] theorem Loader.abandon_outcome (l : Loader) : l.abandon.outcome = l.outcome := rfl
@[simp] theorem Loader.abandon_check (l : Loader) : l.abandon.check = l.check := rfl
@[simp] theorem Loader.abandon_load (l : Loader) : l.abandon.load = none := rfl
@[simp] theorem Loader.abandon_flash (l : Loader) : l.abandon.flash = { l.flash with selected := false } := rfl
@[simp] theorem Loader.abandon_everLoaded (l : Loader) : l.abandon.everLoaded = l.everLoaded := rfl
@[simp] theorem FlashPort.ended_selected (p : FlashPort) (n : Nat) : (p.ended n).selected = false := rfl
@[simp] theorem FlashPort.ended_sent (p : FlashPort) (n : Nat) : (p.ended n).sent = p.sent := rfl
@[simp] theorem FlashPort.ended_clocked (p : FlashPort) (n : Nat) : (p.ended n).clocked = n := rfl

/-! ## The check of CDA (R90, R157) -/

@[simp] theorem Gate.lookAtCda_stallUse (g : Gate) (b : Bool) :
    (g.lookAtCda b).stallUse = if b then .stuck else .stopped := rfl
@[simp] theorem Gate.lookAtCda_stallElapsed (g : Gate) (b : Bool) : (g.lookAtCda b).stallElapsed = 0 := rfl
@[simp] theorem Gate.lookAtCda_checkSet (g : Gate) (b : Bool) :
    (g.lookAtCda b).checkSet = if b then g.active else g.checkSet := rfl
@[simp] theorem Gate.beginClear_clearing (g : Gate) : g.beginClear.clearing = true := rfl
@[simp] theorem Gate.beginClear_stallUse (g : Gate) : g.beginClear.stallUse = .stopped := rfl
@[simp] theorem Gate.beginClear_stallElapsed (g : Gate) :
    g.beginClear.stallElapsed = max g.stallElapsed g.checkSet.stuckDetect := rfl
@[simp] theorem Gate.beginClear_checkSet (g : Gate) : g.beginClear.checkSet = g.checkSet := rfl
@[simp] theorem Slot.rewritten_record (x : Slot) : x.rewritten.record = x.record := rfl
@[simp] theorem Slot.rewritten_syndrome (x : Slot) : x.rewritten.syndrome = 0 := rfl
@[simp] theorem Slot.rewritten_used (x : Slot) : x.rewritten.used = x.used := rfl

end Sys2Proof.Machine
end

