-- ==== Sys2Proof/Laws/Frames.lean ====
section
/-! SUPPORT. How a command's next state meets the frames of Safety.lean: a change of one cage, of one channel, and the
adoption of a pending timing set, which commutes with a change of the cage that leaves its flags alone. -/

namespace Sys2Proof.Machine

/-! ## Changes of one cage and of one channel -/

theorem Vector.set_getElem_self {α : Type} {n : Nat} (v : Vector α n) (i : Nat) (h : i < n) : v.set i v[i] = v := by
  ext j hj
  simp only [Vector.getElem_set]
  split
  · rename_i e
    subst e
    rfl
  · rfl

theorem State.modCage_id (s : State) (k : CageId) (f : Cage → Cage) (h : f (s.cage k) = s.cage k) : s.modCage k f = s := by
  unfold State.modCage
  rw [h]
  unfold State.cage
  have := Vector.set_getElem_self s.cages k.val k.isLt
  simp only [Fin.getElem_fin]
  rw [this]

theorem State.modCage_modCage (s : State) (k : CageId) (f g : Cage → Cage) :
    (s.modCage k f).modCage k g = s.modCage k fun c => g (f c) := by
  simp [State.modCage, State.cage]

theorem State.modCage_congr (s : State) (k : CageId) (f g : Cage → Cage) (h : f (s.cage k) = g (s.cage k)) :
    s.modCage k f = s.modCage k g := by
  unfold State.modCage
  rw [h]

/-- A change of cage `k` alone, as a frame. -/
theorem cageBecomes_modCage {k : CageId} {c : Cage} {s : State} {f : Cage → Cage} (h : f (s.cage k) = c) :
    cageBecomes k c s (s.modCage k f) :=
  ⟨by rw [State.cage_modCage_same, h], fun _ hj => State.cage_modCage_other s k _ f hj,
    rfl, rfl, rfl, rfl, rfl, rfl, rfl, rfl, rfl, rfl⟩

theorem cageBecomes_self {k : CageId} {c : Cage} {s : State} (h : s.cage k = c) : cageBecomes k c s s :=
  ⟨h, fun _ _ => rfl, rfl, rfl, rfl, rfl, rfl, rfl, rfl, rfl, rfl, rfl⟩

/-- A frame through two changes. -/
theorem cageBecomes_trans {k : CageId} {c d : Cage} {s t u : State} (a : cageBecomes k c s t) (b : cageBecomes k d t u) :
    cageBecomes k d s u := by
  obtain ⟨_, a2, a3, a4, a5, a6, a7, a8, a9, a10, a11, a12⟩ := a
  obtain ⟨b1, b2, b3, b4, b5, b6, b7, b8, b9, b10, b11, b12⟩ := b
  exact ⟨b1, fun j hj => (b2 j hj).trans (a2 j hj), b3.trans a3, b4.trans a4, b5.trans a5, b6.trans a6, b7.trans a7,
    b8.trans a8, b9.trans a9, b10.trans a10, b11.trans a11, b12.trans a12⟩

/-- A change of channel `ch` alone, as a frame. -/
theorem channelBecomes_modChannel {ch : Fin 4} {h : Channel} {s : State} {f : Channel → Channel}
    (e : f s.channels[ch] = h) : channelBecomes ch h s (s.modChannel ch f) :=
  ⟨by rw [← e]; exact State.modChannel_same s ch f, fun d hd => State.modChannel_other s ch d f hd,
    rfl, rfl, rfl, rfl, rfl, rfl, rfl, rfl, rfl, rfl⟩

theorem State.modChannel_modChannel (s : State) (ch : Fin 4) (f g : Channel → Channel) :
    (s.modChannel ch f).modChannel ch g = s.modChannel ch fun h => g (f h) := by
  simp [State.modChannel]

/-- A change of one cage and one channel, as a frame. -/
theorem bothBecome_mod {k : CageId} {c : Cage} {ch : Fin 4} {h : Channel} {s : State} {f : Cage → Cage}
    {g : Channel → Channel} (ec : f (s.cage k) = c) (eh : g s.channels[ch] = h) :
    bothBecome k c ch h s ((s.modCage k f).modChannel ch g) :=
  ⟨by rw [← ec]; exact State.cage_modCage_same s k f, fun j hj => State.cage_modCage_other s k j f hj,
    by rw [← eh]; exact State.modChannel_same (s.modCage k f) ch g,
    fun d hd => State.modChannel_other (s.modCage k f) ch d g hd, rfl, rfl, rfl, rfl, rfl, rfl, rfl, rfl, rfl⟩

theorem State.modChannel_modCage (s : State) (ch : Fin 4) (g : Channel → Channel) (k : CageId) (f : Cage → Cage) :
    (s.modChannel ch g).modCage k f = (s.modCage k f).modChannel ch g := rfl

/-! ## Adoption (R90) -/

theorem Vector.any_eq_map {α : Type} {n : Nat} (v : Vector α n) (p : α → Bool) : v.any p = (v.map p).any id := by
  rw [Bool.eq_iff_iff]
  simp [Vector.any_eq_true]

theorem Vector.any_set_of_eq {α : Type} {n : Nat} (v : Vector α n) (p : α → Bool) (i : Nat) (hi : i < n) (x : α)
    (h : p x = p v[i]) : (v.set i x).any p = v.any p := by
  have e : (v.set i x).map p = v.map p := by
    ext j hj
    simp only [Vector.getElem_map, Vector.getElem_set]
    split
    · rename_i e
      subst e
      rw [h]
    · rfl
  rw [Vector.any_eq_map, e, ← Vector.any_eq_map]

/-- A change of a cage that leaves its two adoption flags alone leaves the question of R90 alone. -/
theorem State.anyAdoptionDue_modCage (s : State) (k : CageId) (f : Cage → Cage)
    (h1 : (f (s.cage k)).seq.adoptionDue = (s.cage k).seq.adoptionDue)
    (h2 : (f (s.cage k)).gate.adoptionDue = (s.cage k).gate.adoptionDue) :
    (s.modCage k f).anyAdoptionDue = s.anyAdoptionDue := by
  unfold State.anyAdoptionDue
  congr 1
  exact Vector.any_set_of_eq s.cages _ k.val k.isLt _ (by simp only [h1, h2]; rfl)

/-- The test for flags still set is the search of every user (R90). -/
theorem State.anyAdoptionDue_iff (s : State) : s.anyAdoptionDue = true ↔ s.adoptionLeft := by
  simp only [State.anyAdoptionDue, State.adoptionLeft, Bool.or_eq_true, Vector.any_eq_true, State.cage]
  constructor
  · rintro (⟨i, hi, h⟩ | ⟨i, hi, h⟩)
    · exact .inl ⟨⟨i, hi⟩, by simpa using h⟩
    · exact .inr ⟨⟨i, hi⟩, h⟩
  · rintro (⟨k, h⟩ | ⟨c, h⟩)
    · exact .inl ⟨k, k.isLt, by simpa using h⟩
    · exact .inr ⟨c, c.isLt, h⟩

/-- What adopting a pending set makes of a cage. -/
def Cage.adopted (t : TimingSet) (c : Cage) : Cage := { c with seq := { c.seq with active := t, adoptionDue := false } }

/-- The adoption of a sequencer commutes with a change of its cage that leaves the flags and the active set alone. -/
theorem State.adoptSeq_modCage (s : State) (k : CageId) (f : Cage → Cage)
    (h1 : ∀ c, (f c).seq.adoptionDue = c.seq.adoptionDue) (h2 : ∀ c, (f c).gate.adoptionDue = c.gate.adoptionDue)
    (h3 : ∀ t c, f (c.adopted t) = (f c).adopted t) : (s.modCage k f).adoptSeq k = (s.adoptSeq k).modCage k f := by
  unfold State.adoptSeq
  rw [State.modCage_pendingTiming]
  cases s.pendingTiming with
  | none => rfl
  | some t =>
    simp only [State.cage_modCage_same, h1]
    by_cases hd : (s.cage k).seq.adoptionDue = true
    · rw [if_pos hd, if_pos hd]
      have e : (s.modCage k f).modSeq k (fun q => { q with active := t, adoptionDue := false })
          = (s.modSeq k fun q => { q with active := t, adoptionDue := false }).modCage k f := by
        unfold State.modSeq
        rw [State.modCage_modCage, State.modCage_modCage]
        exact State.modCage_congr s k _ _ (h3 t (s.cage k)).symm
      rw [e]
      unfold State.settlePending
      rw [State.anyAdoptionDue_modCage _ k f (h1 _) (h2 _)]
      split <;> rfl
    · rw [if_neg hd, if_neg hd]

/-- The adoption of a sequencer changes nothing but its cage's flag and active set and the pending set. -/
theorem State.adoptSeq_facts (s : State) (k : CageId) :
    ((s.adoptSeq k).cage k = s.cage k ∨ ∃ t, s.pendingTiming = some t ∧ (s.adoptSeq k).cage k = (s.cage k).adopted t) ∧
    othersSame k s (s.adoptSeq k) ∧ (s.adoptSeq k).channels = s.channels ∧ (s.adoptSeq k).staged = s.staged ∧
    (s.adoptSeq k).power = s.power ∧ (s.adoptSeq k).store = s.store ∧ (s.adoptSeq k).log = s.log ∧
    (s.adoptSeq k).loader = s.loader ∧ (s.adoptSeq k).notice = s.notice ∧ (s.adoptSeq k).lineReset = s.lineReset ∧
    (s.adoptSeq k).pending = s.pending := by
  unfold State.adoptSeq
  cases hp : s.pendingTiming with
  | none => exact ⟨Or.inl rfl, fun _ _ => rfl, rfl, rfl, rfl, rfl, rfl, rfl, rfl, rfl, rfl⟩
  | some t =>
    dsimp only
    split
    · have key : ∀ u : State, (u.settlePending).cages = u.cages ∧ u.settlePending.channels = u.channels ∧
          u.settlePending.staged = u.staged ∧ u.settlePending.power = u.power ∧ u.settlePending.store = u.store ∧
          u.settlePending.log = u.log ∧ u.settlePending.loader = u.loader ∧ u.settlePending.notice = u.notice ∧
          u.settlePending.lineReset = u.lineReset ∧ u.settlePending.pending = u.pending := by
        intro u
        unfold State.settlePending
        split <;> exact ⟨rfl, rfl, rfl, rfl, rfl, rfl, rfl, rfl, rfl, rfl⟩
      obtain ⟨a1, a2, a3, a4, a5, a6, a7, a8, a9, a10⟩ :=
        key (s.modSeq k fun q => { q with active := t, adoptionDue := false })
      refine ⟨Or.inr ⟨t, rfl, ?_⟩, fun j hj => ?_, a2, a3, a4, a5, a6, a7, a8, a9, a10⟩
      · rw [State.cage_congr a1 k]
        exact State.cage_modCage_same s k _
      · rw [State.cage_congr a1 j]
        exact State.cage_modCage_other s k j _ hj
    · exact ⟨Or.inl rfl, fun _ _ => rfl, rfl, rfl, rfl, rfl, rfl, rfl, rfl, rfl, rfl⟩

end Sys2Proof.Machine
end

