-- ==== Sys2Proof/Laws/Power.lean ====
section
/-! SUPPORT. What the checks of the Power Admission Unit do to the cages and to the rest of the part. -/

namespace Sys2Proof.Machine

theorem Cage.admitted.trans {c d e : Cage} (a : c.admitted d) (b : d.admitted e) : c.admitted e := by
  unfold Cage.admitted at a b ⊢
  rw [b, a]

/-- An admission makes an admitted cage of its cage, and changes no other (R65, R101). -/
theorem State.toPowerup_admitted (s : State) (k : CageId) : (s.cage k).admitted ((s.toPowerup k).cage k) := by
  unfold State.toPowerup State.startPhase
  rw [State.cage_modCage_same]
  have h := ((s.enter k .powerup).adoptSeq_facts k).1
  rw [State.enter_cage_same] at h
  rcases h with h | ⟨t, _, h⟩ <;> rw [h] <;>
    simp [Cage.admitted, Cage.adopted, Seq.enter, mrstFor, mlpwFor, pintFor, CageState.relays, CageState.clearsDecision]

theorem State.toPowerup_other (s : State) (k j : CageId) (h : j ≠ k) : (s.toPowerup k).cage j = s.cage j := by
  unfold State.toPowerup State.startPhase
  rw [State.cage_modCage_other _ _ _ _ h, ((s.enter k .powerup).adoptSeq_facts k).2.1 j h]
  exact State.cage_modCage_other s k j _ h

theorem State.toPowerup_shared (s : State) (k : CageId) : let t := s.toPowerup k
    t.channels = s.channels ∧ t.staged = s.staged ∧ t.power = s.power ∧ t.store = s.store ∧ t.log = s.log ∧
    t.loader = s.loader ∧ t.notice = s.notice ∧ t.lineReset = s.lineReset ∧ t.pending = s.pending :=
  ((s.enter k .powerup).adoptSeq_facts k).2.2

/-- What the checks of the unit leave alone: every block but the cages, the unit itself and the pending timing set. -/
structure UnitKeeps (s t : State) : Prop where
  cage : ∀ j : CageId, t.cage j = s.cage j ∨ (s.cage j).admitted (t.cage j)
  channels : t.channels = s.channels
  staged : t.staged = s.staged
  store : t.store = s.store
  log : t.log = s.log
  loader : t.loader = s.loader
  notice : t.notice = s.notice
  lineReset : t.lineReset = s.lineReset
  pending : t.pending = s.pending

theorem UnitKeeps.refl (s : State) : UnitKeeps s s := ⟨fun _ => .inl rfl, rfl, rfl, rfl, rfl, rfl, rfl, rfl, rfl⟩

theorem UnitKeeps.modPower (s : State) (f : Power → Power) : UnitKeeps s (s.modPower f) :=
  ⟨fun _ => .inl rfl, rfl, rfl, rfl, rfl, rfl, rfl, rfl, rfl⟩

theorem UnitKeeps.trans {s t u : State} (a : UnitKeeps s t) (b : UnitKeeps t u) : UnitKeeps s u where
  cage := fun j => by
    rcases b.cage j with h | h
    · rw [h]
      exact a.cage j
    · right
      rcases a.cage j with h' | h'
      · rw [← h']
        exact h
      · exact h'.trans h
  channels := b.channels.trans a.channels
  staged := b.staged.trans a.staged
  store := b.store.trans a.store
  log := b.log.trans a.log
  loader := b.loader.trans a.loader
  notice := b.notice.trans a.notice
  lineReset := b.lineReset.trans a.lineReset
  pending := b.pending.trans a.pending

theorem UnitKeeps.admitHeads (s : State) (l : List AdmissionEntry) : UnitKeeps s (s.admitHeads l) := by
  induction l generalizing s with
  | nil => exact UnitKeeps.refl s
  | cons e rest ih =>
    unfold State.admitHeads
    split
    · obtain ⟨a1, a2, _, a4, a5, a6, a7, a8, a9⟩ := (s.modPower fun p => p.charge e rest).toPowerup_shared e.cage
      refine (UnitKeeps.modPower s fun p => p.charge e rest).trans (UnitKeeps.trans ?_ (ih _))
      refine ⟨fun j => ?_, a1, a2, a4, a5, a6, a7, a8, a9⟩
      by_cases hj : j = e.cage
      · subst hj
        exact .inr (State.toPowerup_admitted _ _)
      · exact .inl (State.toPowerup_other _ _ _ hj)
    · exact UnitKeeps.refl s

theorem UnitKeeps.checkHead (s : State) : UnitKeeps s s.checkHead := UnitKeeps.admitHeads s _

theorem UnitKeeps.unitTests (s : State) : UnitKeeps s s.unitTests :=
  (UnitKeeps.modPower s Power.adopt).trans (UnitKeeps.checkHead _)

/-- A cage that is not on the list is not admitted. -/
theorem State.admitHeads_other (s : State) (l : List AdmissionEntry) (j : CageId) (h : ∀ e ∈ l, e.cage ≠ j) :
    (s.admitHeads l).cage j = s.cage j := by
  induction l generalizing s with
  | nil => rfl
  | cons e rest ih =>
    unfold State.admitHeads
    split
    · rw [ih _ fun e' he' => h e' (List.mem_cons_of_mem _ he'),
        State.toPowerup_other _ _ _ (h e List.mem_cons_self).symm]
      rfl
    · rfl

end Sys2Proof.Machine
end

