-- ==== Sys2Proof/Laws/SlotMem.lean ====
section
/-! SUPPORT. The laws of the slot memory: every operation keeps its canonical form, a read after a write gives the slot
written, and a write leaves every other slot alone. -/

namespace Sys2Proof.Machine

theorem SlotMem.wfFrom_mono {lo hi : Nat} (h : lo ≤ hi) : ∀ {m : SlotMem}, SlotMem.wfFrom hi m = true →
    SlotMem.wfFrom lo m = true
  | [], _ => rfl
  | (a, x) :: t, hw => by
    simp only [SlotMem.wfFrom, Bool.and_eq_true, decide_eq_true_eq] at hw ⊢
    exact ⟨⟨le_trans h hw.1.1, hw.1.2⟩, hw.2⟩

theorem SlotMem.wfFrom_cons {i : Nat} {x : Slot} {m : SlotMem} {lo : Nat} (hi : lo ≤ i)
    (hm : SlotMem.wfFrom (i + 1) m = true) : SlotMem.wfFrom lo (SlotMem.cons i x m) = true := by
  unfold SlotMem.cons
  split
  · exact SlotMem.wfFrom_mono (by omega) hm
  · rename_i hx
    simp [SlotMem.wfFrom, hi, hx, hm]

theorem SlotMem.wfFrom_write {i : Nat} {x : Slot} : ∀ {m : SlotMem} {lo : Nat}, lo ≤ i →
    SlotMem.wfFrom lo m = true → SlotMem.wfFrom lo (SlotMem.write m i x) = true
  | [], lo, hi, _ => SlotMem.wfFrom_cons hi rfl
  | (a, y) :: t, lo, hi, hm => by
    simp only [SlotMem.wfFrom, Bool.and_eq_true, decide_eq_true_eq] at hm
    obtain ⟨⟨hla, hy⟩, ht⟩ := hm
    unfold SlotMem.write
    split
    · rename_i hlt
      apply SlotMem.wfFrom_cons hi
      simp [SlotMem.wfFrom, hy, ht, hlt]
    · split
      · rename_i h1 h2
        subst h2
        exact SlotMem.wfFrom_cons hi ht
      · rename_i h1 h2
        have : a + 1 ≤ i := by omega
        simp [SlotMem.wfFrom, hy, hla, SlotMem.wfFrom_write this ht]

/-- Writing a slot keeps the canonical form. -/
theorem SlotMem.wf_write {m : SlotMem} {i : Nat} {x : Slot} (h : SlotMem.wf m = true) :
    SlotMem.wf (SlotMem.write m i x) = true := SlotMem.wfFrom_write (Nat.zero_le i) h

/-- Freeing a slot keeps the canonical form. -/
theorem SlotMem.wf_free {m : SlotMem} {i : Nat} (h : SlotMem.wf m = true) : SlotMem.wf (SlotMem.free m i) = true :=
  SlotMem.wf_write h

theorem SlotMem.wf_foldl_free {m : SlotMem} (is : List Nat) (h : SlotMem.wf m = true) :
    SlotMem.wf (is.foldl SlotMem.free m) = true := by
  induction is generalizing m with
  | nil => exact h
  | cons i is ih => exact ih (SlotMem.wf_free h)

theorem SlotMem.read_eq_blank {i : Nat} : ∀ {m : SlotMem} {lo : Nat}, i < lo → SlotMem.wfFrom lo m = true →
    SlotMem.read m i = Slot.blank
  | [], _, _, _ => rfl
  | (a, x) :: t, lo, hi, hm => by
    simp only [SlotMem.wfFrom, Bool.and_eq_true, decide_eq_true_eq] at hm
    unfold SlotMem.read
    rw [if_neg (by omega)]
    exact SlotMem.read_eq_blank (lo := a + 1) (by omega) hm.2

theorem SlotMem.read_cons_same {i : Nat} {x : Slot} {m : SlotMem} (hm : SlotMem.wfFrom (i + 1) m = true) :
    SlotMem.read (SlotMem.cons i x m) i = x := by
  unfold SlotMem.cons
  split
  · rename_i hx
    rw [SlotMem.read_eq_blank (Nat.lt_succ_self i) hm, hx]
  · simp [SlotMem.read]

theorem SlotMem.read_cons_other {i j : Nat} {x : Slot} {m : SlotMem} (h : j ≠ i) :
    SlotMem.read (SlotMem.cons i x m) j = SlotMem.read m j := by
  unfold SlotMem.cons
  split
  · rfl
  · simp [SlotMem.read, Ne.symm h]

theorem SlotMem.read_writeFrom_same {i : Nat} {x : Slot} : ∀ {m : SlotMem} {lo : Nat}, SlotMem.wfFrom lo m = true →
    SlotMem.read (SlotMem.write m i x) i = x
  | [], _, _ => SlotMem.read_cons_same rfl
  | (a, y) :: t, lo, hm => by
    simp only [SlotMem.wfFrom, Bool.and_eq_true, decide_eq_true_eq] at hm
    obtain ⟨⟨hla, hy⟩, ht⟩ := hm
    unfold SlotMem.write
    split
    · rename_i hlt
      exact SlotMem.read_cons_same (by simp [SlotMem.wfFrom, hy, ht, hlt])
    · split
      · rename_i h1 h2
        subst h2
        exact SlotMem.read_cons_same ht
      · rename_i h1 h2
        rw [SlotMem.read, if_neg (by omega)]
        exact SlotMem.read_writeFrom_same ht

/-- A read after a write gives the slot written. -/
theorem SlotMem.read_write_same {m : SlotMem} {i : Nat} {x : Slot} (h : SlotMem.wf m = true) :
    SlotMem.read (SlotMem.write m i x) i = x := SlotMem.read_writeFrom_same h

/-- A write leaves every other slot alone. -/
theorem SlotMem.read_write_other {i j : Nat} {x : Slot} (h : j ≠ i) : ∀ {m : SlotMem},
    SlotMem.read (SlotMem.write m i x) j = SlotMem.read m j
  | [] => SlotMem.read_cons_other h
  | (a, y) :: t => by
    unfold SlotMem.write
    split
    · exact SlotMem.read_cons_other h
    · split
      · rename_i h1 h2
        subst h2
        rw [SlotMem.read_cons_other h, SlotMem.read, if_neg (Ne.symm h)]
      · simp only [SlotMem.read, SlotMem.read_write_other h]

/-- Freeing a slot keeps what it holds (R191) but for its use. -/
theorem SlotMem.read_free_same {m : SlotMem} {i : Nat} (h : SlotMem.wf m = true) :
    SlotMem.read (SlotMem.free m i) i = { SlotMem.read m i with used := false } := SlotMem.read_write_same h

/-- Freeing a slot leaves every other slot alone. -/
theorem SlotMem.read_free_other {m : SlotMem} {i j : Nat} (h : j ≠ i) :
    SlotMem.read (SlotMem.free m i) j = SlotMem.read m j := SlotMem.read_write_other h

/-- The memory after reset has the canonical form. -/
theorem State.reset_slots_wf : SlotMem.wf State.reset.store.slots = true := rfl

end Sys2Proof.Machine
end

