-- ==== Sys2Proof/Laws/Keeps.lean ====
section
/-! SUPPORT. What every operation for one cage keeps: the other cages but for those the Power Admission Unit admits, the queue
of commands, the profile, the canonical form of the slot memory, the bounds of the notice port and of the Fault Log, the power
rule, and the output levels.  Each shared operation has one lemma, in a form that chains. -/

namespace Sys2Proof.Machine

/-- What an operation for cage `k` that leads from `s` to `t` keeps. -/
structure Keeps (k : CageId) (s t : State) : Prop where
  others : othersKept k s t
  list : ∀ e ∈ t.power.list, e.cage ≠ k → ∃ e' ∈ s.power.list, e'.cage = e.cage
  slots : SlotMem.wf s.store.slots = true → SlotMem.wf t.store.slots = true
  notice : s.notice.bounded → t.notice.bounded
  log : s.log.bounded → t.log.bounded
  power : s.power.sound → t.power.sound
  outputs : (s.cage k).outputsSound → (t.cage k).outputsSound
  pending : t.pending = s.pending
  lineReset : t.lineReset = s.lineReset
  profile : t.loader.profile = s.loader.profile
  check : t.store.checkValue = s.store.checkValue
  uptime : t.log.uptime = s.log.uptime
  resetLoading : t.resetLoading = s.resetLoading

theorem othersKept.trans {k : CageId} {s t u : State} (a : othersKept k s t)
    (hl : ∀ e ∈ t.power.list, e.cage ≠ k → ∃ e' ∈ s.power.list, e'.cage = e.cage) (b : othersKept k t u) :
    othersKept k s u := by
  intro j hj
  rcases b j hj with hb | ⟨⟨e, he, rfl⟩, hb⟩
  · rw [hb]
    exact a j hj
  · right
    refine ⟨hl e he hj, ?_⟩
    rcases a e.cage hj with ha | ⟨_, ha⟩
    · rw [← ha]
      exact hb
    · exact ha.trans hb

theorem othersKept.of_same {k : CageId} {s t : State} (h : othersSame k s t) : othersKept k s t :=
  fun j hj => .inl (h j hj)

theorem Keeps.refl (k : CageId) (s : State) : Keeps k s s where
  others := fun _ _ => .inl rfl
  list := fun e he _ => ⟨e, he, rfl⟩
  slots := id
  notice := id
  log := id
  power := id
  outputs := id
  pending := rfl
  lineReset := rfl
  profile := rfl
  check := rfl
  uptime := rfl
  resetLoading := rfl

theorem Keeps.trans {k : CageId} {s t u : State} (a : Keeps k s t) (b : Keeps k t u) : Keeps k s u where
  others := a.others.trans a.list b.others
  list := fun e he hk => by
    obtain ⟨e1, h1, c1⟩ := b.list e he hk
    obtain ⟨e2, h2, c2⟩ := a.list e1 h1 (by rw [c1]; exact hk)
    exact ⟨e2, h2, c2.trans c1⟩
  slots := fun h => b.slots (a.slots h)
  notice := fun h => b.notice (a.notice h)
  log := fun h => b.log (a.log h)
  power := fun h => b.power (a.power h)
  outputs := fun h => b.outputs (a.outputs h)
  pending := b.pending.trans a.pending
  lineReset := b.lineReset.trans a.lineReset
  profile := b.profile.trans a.profile
  check := b.check.trans a.check
  uptime := b.uptime.trans a.uptime
  resetLoading := b.resetLoading.trans a.resetLoading

/-- The outputs do not depend on how a state is reached: Keeps from what the two states share. -/
theorem Keeps.of_shared {k : CageId} {s t u : State} (h : Keeps k s t) (hc : u.cages = t.cages)
    (hs : u.store = t.store) (hn : u.notice = t.notice) (hl : u.log = t.log) (hp : u.power = t.power)
    (hq : u.pending = t.pending) (hr : u.lineReset = t.lineReset) (hf : u.loader.profile = t.loader.profile)
    (hg : u.resetLoading = t.resetLoading) :
    Keeps k s u where
  others := fun j hj => by rw [State.cage_congr hc j]; exact h.others j hj
  list := by rw [hp]; exact h.list
  slots := fun a => by rw [hs]; exact h.slots a
  notice := fun a => by rw [hn]; exact h.notice a
  log := fun a => by rw [hl]; exact h.log a
  power := fun a => by rw [hp]; exact h.power a
  outputs := fun a => by rw [State.cage_congr hc k]; exact h.outputs a
  pending := hq.trans h.pending
  lineReset := hr.trans h.lineReset
  profile := hf.trans h.profile
  check := by rw [hs]; exact h.check
  uptime := by rw [hl]; exact h.uptime
  resetLoading := hg.trans h.resetLoading

/-! ## One cage -/

/-- The levels of a cage that its outputs rest on. -/
def Cage.levels (c : Cage) : CageState × Bool × Bool × Bool × Bool × Bool :=
  (c.seq.state, c.seq.adoptPending, c.seq.mrst, c.seq.mlpw, c.seq.pint, c.mint)

theorem Cage.outputsSound_of_levels {c d : Cage} (h : d.levels = c.levels) (hc : c.outputsSound) : d.outputsSound := by
  simp only [Cage.levels, Prod.mk.injEq] at h
  obtain ⟨h1, h2, h3, h4, h5, h6⟩ := h
  simpa only [Cage.outputsSound, h1, h2, h3, h4, h5, h6] using hc

/-- A change of cage `k` that keeps its output levels sound. -/
theorem Keeps.modCage {k : CageId} {s t : State} (h : Keeps k s t) {f : Cage → Cage}
    (hf : (t.cage k).outputsSound → (f (t.cage k)).outputsSound) : Keeps k s (t.modCage k f) where
  others := fun j hj => by rw [State.cage_modCage_other t k j f hj]; exact h.others j hj
  list := h.list
  slots := h.slots
  notice := h.notice
  log := h.log
  power := h.power
  outputs := fun a => by rw [State.cage_modCage_same]; exact hf (h.outputs a)
  pending := h.pending
  lineReset := h.lineReset
  profile := h.profile
  check := h.check
  uptime := h.uptime
  resetLoading := h.resetLoading

/-- A change of cage `k` that leaves its levels as they are. -/
theorem Keeps.quiet {k : CageId} {s t : State} (h : Keeps k s t) {f : Cage → Cage}
    (hf : (f (t.cage k)).levels = (t.cage k).levels) : Keeps k s (t.modCage k f) :=
  h.modCage (Cage.outputsSound_of_levels hf)

theorem Keeps.modSeq {k : CageId} {s t : State} (h : Keeps k s t) {f : Seq → Seq}
    (hf : ({ t.cage k with seq := f (t.cage k).seq } : Cage).levels = (t.cage k).levels) : Keeps k s (t.modSeq k f) :=
  h.quiet hf

theorem Keeps.setTimer {k : CageId} {s t : State} (h : Keeps k s t) {p : PhaseTimer} : Keeps k s (t.setTimer k p) :=
  h.quiet rfl

theorem Keeps.modJournal {k : CageId} {s t : State} (h : Keeps k s t) {f : CageRecord → CageRecord} :
    Keeps k s (t.modJournal k f) := h.quiet rfl

theorem Keeps.modGate {k : CageId} {s t : State} (h : Keeps k s t) {f : Gate → Gate} : Keeps k s (t.modGate k f) :=
  h.quiet rfl

theorem Keeps.modBuffers {k : CageId} {s t : State} (h : Keeps k s t) {f : Buffers → Buffers} :
    Keeps k s (t.modBuffers k f) := h.quiet rfl

theorem Keeps.setSlot {k : CageId} {s t : State} (h : Keeps k s t) {d : Option Directive} : Keeps k s (t.setSlot k d) :=
  h.quiet rfl

theorem Keeps.count {k : CageId} {s t : State} (h : Keeps k s t) {f : Counters → Counters} : Keeps k s (t.count k f) :=
  h.modSeq rfl

theorem Seq.enter_sound (q : Seq) (policy : PresencePolicy) (mint : Bool) (st : CageState) (c : Cage)
    (hm : c.mint = mint) : ({ c with seq := q.enter policy mint st } : Cage).outputsSound := by
  subst hm
  cases st <;> simp [Cage.outputsSound, Seq.enter, mrstFor, mlpwFor, pintFor, CageState.relays]

/-- A step into a state gives sound levels (R51, R53). -/
theorem Keeps.enter {k : CageId} {s t : State} (h : Keeps k s t) {st : CageState} : Keeps k s (t.enter k st) :=
  h.modCage fun _ => Seq.enter_sound _ _ _ _ (t.cage k) rfl

/-! ## Channels, lists, timing -/

theorem Keeps.modChannel {k : CageId} {s t : State} (h : Keeps k s t) {c : Fin 4} {f : Channel → Channel} :
    Keeps k s (t.modChannel c f) := h.of_shared rfl rfl rfl rfl rfl rfl rfl rfl rfl

theorem Keeps.setCtx {k : CageId} {s t : State} (h : Keeps k s t) {c : Fin 4} {x : ChannelCtx} :
    Keeps k s (t.setCtx c x) := h.modChannel

theorem Keeps.startDelay {k : CageId} {s t : State} (h : Keeps k s t) {c : Fin 4} : Keeps k s (t.startDelay c) :=
  h.modChannel

theorem Keeps.releaseChannel {k : CageId} {s t : State} (h : Keeps k s t) {c : Fin 4} :
    Keeps k s (t.releaseChannel c) := h.modChannel

theorem Keeps.setStaged {k : CageId} {s t : State} (h : Keeps k s t) {l : List CageId} :
    Keeps k s { t with staged := l } := h.of_shared rfl rfl rfl rfl rfl rfl rfl rfl rfl

theorem Keeps.leaveStaged {k j : CageId} {s t : State} (h : Keeps k s t) : Keeps k s (t.leaveStaged j) := h.setStaged

theorem Keeps.settlePending {k : CageId} {s t : State} (h : Keeps k s t) : Keeps k s t.settlePending := by
  unfold State.settlePending
  split
  · exact h
  · exact h.of_shared rfl rfl rfl rfl rfl rfl rfl rfl rfl

theorem Keeps.adoptSeq {k : CageId} {s t : State} (h : Keeps k s t) : Keeps k s (t.adoptSeq k) := by
  unfold State.adoptSeq
  split
  · exact h
  · split
    · exact (h.modSeq rfl).settlePending
    · exact h

theorem Keeps.adoptGate {k : CageId} {s t : State} (h : Keeps k s t) : Keeps k s (t.adoptGate k) := by
  unfold State.adoptGate
  split
  · exact h
  · split
    · exact h.modGate.settlePending
    · exact h

theorem Keeps.adoptChannel {k : CageId} {s t : State} (h : Keeps k s t) {c : Fin 4} : Keeps k s (t.adoptChannel c) := by
  unfold State.adoptChannel
  split
  · exact h
  · split
    · exact h.modChannel.settlePending
    · exact h

theorem Keeps.startPhase {k : CageId} {s t : State} (h : Keeps k s t) {p : Phase} : Keeps k s (t.startPhase k p) := by
  unfold State.startPhase
  exact h.adoptSeq.quiet rfl

theorem Keeps.startWait {k : CageId} {s t : State} (h : Keeps k s t) : Keeps k s (t.startWait k) := h.quiet rfl

theorem Keeps.idleTimer {k : CageId} {s t : State} (h : Keeps k s t) : Keeps k s (t.idleTimer k) := h.quiet rfl

theorem Keeps.reach {k : CageId} {s t : State} (h : Keeps k s t) {v : Nat} : Keeps k s (t.reach k v) := h.quiet rfl

/-! ## Notices, faults, slots -/

theorem NoticePort.bounded_submit {n : NoticePort} (h : n.bounded) (f : Frame) : (n.submit f).bounded := by
  obtain ⟨h1, h2⟩ := h
  unfold NoticePort.submit
  split
  · exact ⟨by simp only [List.length_append, List.length_cons, List.length_nil]; omega, h2⟩
  · exact ⟨h1, by dsimp only; omega⟩

theorem NoticePort.bounded_foldl {n : NoticePort} (h : n.bounded) (fs : List Frame) :
    (fs.foldl NoticePort.submit n).bounded := by
  induction fs generalizing n with
  | nil => exact h
  | cons f fs ih => exact ih (NoticePort.bounded_submit h f)

/-- A change of the notice port that keeps its bounds. -/
theorem Keeps.setNotice {k : CageId} {s t : State} (h : Keeps k s t) {n : NoticePort}
    (hb : t.notice.bounded → n.bounded) : Keeps k s { t with notice := n } where
  others := h.others
  list := h.list
  slots := h.slots
  notice := fun a => hb (h.notice a)
  log := h.log
  power := h.power
  outputs := h.outputs
  pending := h.pending
  lineReset := h.lineReset
  profile := h.profile
  check := h.check
  uptime := h.uptime
  resetLoading := h.resetLoading

theorem Keeps.submit {k : CageId} {s t : State} (h : Keeps k s t) {f : Frame} : Keeps k s (t.submit f) :=
  h.setNotice fun a => NoticePort.bounded_submit a f

theorem Keeps.submitAll {k : CageId} {s t : State} (h : Keeps k s t) {fs : List Frame} : Keeps k s (t.submitAll fs) :=
  h.setNotice fun a => NoticePort.bounded_foldl a fs

theorem FaultLog.bounded_take {l : FaultLog} (h : l.bounded) (e : FaultEntry) : (l.take e).bounded := by
  unfold FaultLog.take
  split
  · rename_i hn
    exact ⟨h.1, h.2.1, fun hc => by simp at hc⟩
  · rename_i x hs
    exact ⟨by dsimp only; omega, h.2.1, fun hc => by simp [hs] at hc⟩

theorem FaultLog.uptime_take (l : FaultLog) (e : FaultEntry) : (l.take e).uptime = l.uptime := by
  unfold FaultLog.take
  split <;> rfl

/-- A change of the log that keeps its bounds and its uptime. -/
theorem Keeps.setLog {k : CageId} {s t : State} (h : Keeps k s t) {l : FaultLog} (hb : t.log.bounded → l.bounded)
    (hu : l.uptime = t.log.uptime) : Keeps k s (t.setLog l) where
  others := h.others
  list := h.list
  slots := h.slots
  notice := h.notice
  log := fun a => hb (h.log a)
  power := h.power
  outputs := h.outputs
  pending := h.pending
  lineReset := h.lineReset
  profile := h.profile
  check := h.check
  uptime := hu.trans h.uptime
  resetLoading := h.resetLoading

theorem Keeps.takeFault {k : CageId} {s t : State} (h : Keeps k s t) {e : FaultEntry} : Keeps k s (t.takeFault e) :=
  (h.setLog (fun a => FaultLog.bounded_take a e) (FaultLog.uptime_take _ _)).submit

theorem Keeps.logFault {k : CageId} {s t : State} (h : Keeps k s t) {n : FaultKind} {c : Option CageId} {d1 d2 : Nat} :
    Keeps k s (t.logFault n c d1 d2) := h.takeFault

/-- A change of the slots that keeps their canonical form. -/
theorem Keeps.modSlots {k : CageId} {s t : State} (h : Keeps k s t) {f : SlotMem → SlotMem}
    (hf : SlotMem.wf t.store.slots = true → SlotMem.wf (f t.store.slots) = true) : Keeps k s (t.modSlots f) where
  others := h.others
  list := h.list
  slots := fun a => hf (h.slots a)
  notice := h.notice
  log := h.log
  power := h.power
  outputs := h.outputs
  pending := h.pending
  lineReset := h.lineReset
  profile := h.profile
  check := h.check
  uptime := h.uptime
  resetLoading := h.resetLoading

theorem Keeps.readSlot {k : CageId} {s t : State} (h : Keeps k s t) {i : Nat} : Keeps k s (t.readSlot k i).1 := by
  unfold State.readSlot
  dsimp only
  split
  · exact h
  · have h1 := h.modSlots (f := fun m => SlotMem.write m i (SlotMem.read t.store.slots i).rewritten)
      fun a => SlotMem.wf_write a
    refine Keeps.logFault (h1.setLog ?_ ?_)
    · exact fun a => ⟨a.1, Nat.min_le_right _ _, a.2.2⟩
    · rfl
  · dsimp only
    exact h.logFault.modJournal

theorem Keeps.readSlots {k : CageId} {s t : State} (h : Keeps k s t) {is : List Nat} : Keeps k s (t.readSlots k is).1 := by
  induction is generalizing t with
  | nil => exact h
  | cons i is ih =>
    unfold State.readSlots
    dsimp only
    split
    · exact ih h.readSlot
    · exact h.readSlot

/-! ## The Power Admission Unit -/

theorem Keeps.modPower {k : CageId} {s t : State} (h : Keeps k s t) {f : Power → Power}
    (hf : t.power.sound → (f t.power).sound)
    (hl : ∀ e ∈ (f t.power).list, e.cage ≠ k → ∃ e' ∈ t.power.list, e'.cage = e.cage) : Keeps k s (t.modPower f) :=
  h.trans { Keeps.refl k t with power := hf, list := hl }

theorem Power.sound_leave {p : Power} (h : p.sound) (k : CageId) : (p.leave k).sound := h

theorem Power.sound_join {p : Power} (h : p.sound) (k : CageId) (c : Fin 8) : (p.join k c).sound := h

theorem sum_map_filter_le {α : Type} (f : α → Nat) (p : α → Bool) (l : List α) :
    ((l.filter p).map f).sum ≤ (l.map f).sum := by
  induction l with
  | nil => exact le_refl _
  | cons a l ih =>
    simp only [List.filter_cons]
    split
    · simp only [List.map_cons, List.sum_cons]; omega
    · simp only [List.map_cons, List.sum_cons]; omega

theorem Power.sound_release {p : Power} (h : p.sound) (k : CageId) : (p.release k).sound := by
  rcases h with h | h
  · left
    exact le_trans (sum_map_filter_le _ _ _) h
  · right
    refine le_trans ?_ h
    simp only [Power.release]
    rw [List.filter_comm]
    exact List.length_filter_le _ _

theorem Power.sound_adopt {p : Power} (h : p.sound) : p.adopt.sound := by
  unfold Power.adopt
  split
  · exact h
  · rename_i b hb
    split
    · rename_i ha
      simp only [Power.adoptionHolds, hb, Bool.or_eq_true, decide_eq_true_eq] at ha
      rcases ha with ha | ha
      · exact .inl ha
      · exact .inr (le_trans (List.length_filter_le _ _) ha)
    · exact h

theorem Power.limit_le_budget (p : Power) : p.limit ≤ p.budget := by
  unfold Power.limit
  split
  · exact le_refl _
  · exact Nat.min_le_left _ _

theorem filter_eq_nil_of_sum_zero {l : List Charge} (h : (l.map Charge.draw).sum = 0) :
    l.filter (fun c => decide (0 < c.draw)) = [] := by
  rw [List.filter_eq_nil_iff]
  intro c hc
  have : c.draw ≤ (l.map Charge.draw).sum := List.single_le_sum (by simp) _ (List.mem_map_of_mem hc)
  simp
  omega

/-- An admission that passes the test keeps the power rule (R100, R102). -/
theorem Power.sound_charge {p : Power} {e : AdmissionEntry} {rest : List AdmissionEntry}
    (hp : p.passes e.draw = true) : (p.charge e rest).sound := by
  simp only [Power.passes, Bool.or_eq_true, decide_eq_true_eq] at hp
  rcases hp with hp | hp
  · left
    have := p.limit_le_budget
    simp only [Power.charge, Power.committed, List.map_append, List.map_cons, List.map_nil, List.sum_append,
      List.sum_cons, List.sum_nil] at hp ⊢
    omega
  · right
    simp only [Power.committed] at hp
    simp only [Power.charge, List.filter_append, filter_eq_nil_of_sum_zero hp, List.nil_append]
    exact le_trans (List.length_filter_le _ _) (by simp)

/-! ## Sequencer operations -/

theorem Keeps.toSettle {k : CageId} {s t : State} (h : Keeps k s t) : Keeps k s (t.toSettle k) := h.enter.startPhase

theorem Cage.admitted.outputsSound {c d : Cage} (h : c.admitted d) : d.outputsSound := by
  rw [h]
  simp [Cage.outputsSound]

theorem Keeps.admitHeads {k : CageId} {s : State} (l : List AdmissionEntry) {t : State} (h : Keeps k s t)
    (hl : t.power.list = l) : Keeps k s (t.admitHeads l) := by
  induction l generalizing t with
  | nil => exact h
  | cons e rest ih =>
    unfold State.admitHeads
    split
    · rename_i hp
      obtain ⟨a1, a2, a3, a4, a5, a6, a7, a8, a9⟩ := (t.modPower fun p => p.charge e rest).toPowerup_shared e.cage
      refine ih (h.trans ?_) (by rw [a3]; rfl)
      have hm : e ∈ t.power.list := by rw [hl]; exact List.mem_cons_self
      have hs : ∀ e' ∈ rest, e' ∈ t.power.list := fun e' he' => by rw [hl]; exact List.mem_cons_of_mem _ he'
      refine { others := fun j _ => ?_, list := by rw [a3]; exact fun e' he' _ => ⟨e', hs e' he', rfl⟩,
               slots := by rw [a4]; exact id, notice := by rw [a7]; exact id, log := by rw [a5]; exact id,
               power := by rw [a3]; exact fun _ => Power.sound_charge hp, outputs := ?_, pending := a9,
               lineReset := a8, profile := by rw [a6]; rfl, check := by rw [a4]; rfl, uptime := by rw [a5]; rfl,
               resetLoading := by unfold State.resetLoading; rw [a6]; rfl }
      · by_cases hj : j = e.cage
        · subst hj
          exact .inr ⟨⟨e, hm, rfl⟩, State.toPowerup_admitted _ _⟩
        · exact .inl (State.toPowerup_other _ _ _ hj)
      · by_cases hk : k = e.cage
        · subst hk
          exact fun _ => (State.toPowerup_admitted _ _).outputsSound
        · rw [State.toPowerup_other _ _ _ hk]
          exact id
    · exact h

theorem Keeps.checkHead {k : CageId} {s t : State} (h : Keeps k s t) : Keeps k s t.checkHead := h.admitHeads _ rfl

theorem Keeps.unitTests {k : CageId} {s t : State} (h : Keeps k s t) : Keeps k s t.unitTests := by
  refine (h.modPower (fun a => Power.sound_adopt a) ?_).checkHead
  intro e he _
  refine ⟨e, ?_, rfl⟩
  unfold Power.adopt at he
  split at he
  · exact he
  · split at he <;> exact he

theorem Keeps.leaveList {k : CageId} {s t : State} (h : Keeps k s t) : Keeps k s (t.leaveList k) := by
  have h1 := h.modPower (f := fun p => p.leave k) (fun a => Power.sound_leave a k)
    fun e he _ => ⟨e, (List.mem_filter.mp he).1, rfl⟩
  unfold State.leaveList
  dsimp only
  split
  · exact h1.checkHead
  · exact h1

theorem Keeps.releaseDraw {k : CageId} {s t : State} (h : Keeps k s t) : Keeps k s (t.releaseDraw k) :=
  (h.modPower (f := fun p => p.release k) (fun a => Power.sound_release a k) fun e he _ => ⟨e, he, rfl⟩).unitTests

theorem Keeps.joinList {k : CageId} {s t : State} (h : Keeps k s t) : Keeps k s (t.joinList k) := by
  have h1 := h.modPower (f := fun p => p.join k (t.cage k).seq.powerClass) (fun a => Power.sound_join a _ _)
    fun e he hk => by
      rcases List.mem_append.mp he with he | he
      · exact ⟨e, he, rfl⟩
      · rw [List.mem_singleton] at he
        rw [he] at hk
        exact absurd rfl hk
  unfold State.joinList
  dsimp only
  split
  · exact h1.checkHead
  · exact h1

theorem Keeps.stopSeqWork {k : CageId} {s t : State} (h : Keeps k s t) {x : Option Trans} :
    Keeps k s (t.stopSeqWork k x) := h.quiet rfl

theorem Keeps.resumeSeq {k : CageId} {s t : State} (h : Keeps k s t) : Keeps k s (t.resumeSeq k) := by
  refine h.quiet ?_
  split
  · rfl
  · split <;> rfl

theorem Keeps.toQueued {k : CageId} {s t : State} (h : Keeps k s t) : Keeps k s (t.toQueued k) :=
  h.enter.startWait.joinList

theorem Keeps.toStaged {k : CageId} {s t : State} (h : Keeps k s t) : Keeps k s (t.toStaged k) :=
  h.enter.startWait.setStaged

theorem Keeps.toLive {k : CageId} {s t : State} (h : Keeps k s t) : Keeps k s (t.toLive k) := h.enter.quiet rfl

theorem Keeps.startReturn {k : CageId} {s t : State} (h : Keeps k s t) {g : ReturnTarget} :
    Keeps k s (t.startReturn k g) := h.adoptSeq.quiet rfl

theorem Keeps.beginAttempt {k : CageId} {s t : State} (h : Keeps k s t) : Keeps k s (t.beginAttempt k) := h.quiet rfl

theorem Keeps.leaveLists {k : CageId} {s t : State} (h : Keeps k s t) : Keeps k s (t.leaveLists k) := by
  unfold State.leaveLists
  split
  · exact h.leaveList
  · exact h.releaseDraw
  · exact h.leaveStaged
  · exact h

/-! ## The journal -/

theorem SlotMem.wf_rewrite : ∀ (ws : List WorkRec) {m : SlotMem} {mask : Option Byte}, SlotMem.wf m = true →
    SlotMem.wf (rewrite m mask ws).1 = true
  | [], _, _, h => h
  | w :: ws, m, mask, h => by
    unfold rewrite
    split
    · split
      · exact SlotMem.wf_rewrite ws (SlotMem.wf_write h)
      · exact SlotMem.wf_rewrite ws h
    · exact SlotMem.wf_rewrite ws h

theorem SlotMem.wf_place : ∀ (ws : List WorkRec) {m : SlotMem} {mask : Option Byte}, SlotMem.wf m = true →
    SlotMem.wf (place m mask ws).1 = true
  | [], _, _, h => h
  | w :: ws, m, mask, h => by
    unfold place
    split
    · exact SlotMem.wf_place ws h
    · exact SlotMem.wf_place ws (SlotMem.wf_write h)

theorem SlotMem.wf_placeAll : ∀ (segs : List (List WorkRec)) {m : SlotMem} {mask : Option Byte},
    SlotMem.wf m = true → SlotMem.wf (placeAll m mask segs).1 = true
  | [], _, _, h => h
  | seg :: segs, m, mask, h => by
    unfold placeAll
    exact SlotMem.wf_placeAll segs (SlotMem.wf_place seg h)

theorem Keeps.commit {k : CageId} {s t : State} (h : Keeps k s t) {w : Work} : Keeps k s (t.commit k w) := by
  unfold State.commit
  exact (h.modSlots fun a => SlotMem.wf_place _ (SlotMem.wf_placeAll _ (SlotMem.wf_rewrite _
    (SlotMem.wf_foldl_free _ a)))).quiet rfl

theorem Keeps.spill {k : CageId} {s t : State} (h : Keeps k s t) {c : SpillCause} {n : Nat} : Keeps k s (t.spill k c n) :=
  h.modJournal.submit.logFault

theorem Keeps.capture {k : CageId} {s t : State} (h : Keeps k s t) {sheet offset : Byte} {data : List Byte} :
    Keeps k s (t.capture k sheet offset data) := by
  unfold State.capture
  dsimp only
  split
  · split
    · split
      · exact h.readSlots.spill
      · exact h.readSlots.commit
    · exact h.readSlots
  · exact h

theorem Keeps.emptyJournal {k : CageId} {s t : State} (h : Keeps k s t) : Keeps k s (t.emptyJournal k) := by
  unfold State.emptyJournal
  exact (h.modSlots fun a => SlotMem.wf_foldl_free _ a).modJournal

/-! ## Directives -/

theorem Keeps.refuse {k : CageId} {s t : State} (h : Keeps k s t) {d : Directive} {r : RefuseReason} :
    Keeps k s (t.refuse k d r) := h.submit

theorem Keeps.discardSlot {k : CageId} {s t : State} (h : Keeps k s t) : Keeps k s (t.discardSlot k) := by
  unfold State.discardSlot
  split
  · exact h
  · exact h.setSlot.refuse

theorem Keeps.placeDirective {k : CageId} {s t : State} (h : Keeps k s t) {d : Directive} :
    Keeps k s (t.placeDirective k d) := by
  unfold State.placeDirective
  split
  · exact h.setSlot
  · exact h.setSlot.count.submit

theorem Keeps.reseatNow {k : CageId} {s t : State} (h : Keeps k s t) : Keeps k s (t.reseatNow k) := by
  unfold State.reseatNow
  exact h.leaveLists.stopSeqWork.toSettle

theorem Keeps.actReseat {k : CageId} {s t : State} (h : Keeps k s t) {d : Directive} : Keeps k s (t.actReseat k d) := by
  unfold State.actReseat
  split
  · exact h.refuse
  · exact h.reseatNow

theorem Keeps.actResume {k : CageId} {s t : State} (h : Keeps k s t) {d : Directive} : Keeps k s (t.actResume k d) := by
  unfold State.actResume
  dsimp only
  split
  · split
    · exact (h.quiet rfl).toQueued
    · exact h.refuse
  · exact h.refuse

theorem Keeps.decideNo {k : CageId} {s t : State} (h : Keeps k s t) : Keeps k s (t.decideNo k) := h.modSeq rfl

theorem Keeps.actForget {k : CageId} {s t : State} (h : Keeps k s t) : Keeps k s (t.actForget k) := by
  unfold State.actForget
  dsimp only
  split
  · exact h.emptyJournal.decideNo.toQueued
  · exact h.emptyJournal.decideNo
  · exact h.emptyJournal.decideNo
  · exact h.emptyJournal.leaveStaged.decideNo.startReturn
  · exact h.emptyJournal.reseatNow
  · exact h.emptyJournal

theorem Keeps.actRestoreNow {k : CageId} {s t : State} (h : Keeps k s t) {d : Directive} :
    Keeps k s (t.actRestoreNow k d) := by
  unfold State.actRestoreNow
  dsimp only
  split
  · split
    · exact (h.quiet rfl).toStaged
    · exact h.refuse
  · exact h.refuse

theorem Keeps.actFreeze {k : CageId} {s t : State} (h : Keeps k s t) {d : Directive} : Keeps k s (t.actFreeze k d) := by
  unfold State.actFreeze
  split
  · exact h.modJournal
  · exact h
  · exact h.refuse

theorem Keeps.actThaw {k : CageId} {s t : State} (h : Keeps k s t) {d : Directive} : Keeps k s (t.actThaw k d) := by
  unfold State.actThaw
  split
  · exact h.modJournal
  · exact h
  · exact h.refuse

theorem Keeps.actInject {k : CageId} {s t : State} (h : Keeps k s t) {d : Directive} : Keeps k s (t.actInject k d) := by
  unfold State.actInject
  split
  · exact h.modJournal
  · exact h

theorem Keeps.actReload {k : CageId} {s t : State} (h : Keeps k s t) {d : Directive} : Keeps k s (t.actReload k d) := by
  unfold State.actReload
  split
  · exact h.of_shared rfl rfl rfl rfl rfl rfl rfl rfl (by rename_i hn; simp [State.resetLoading, hn])
  · exact h.refuse

theorem Keeps.actClearLog {k : CageId} {s t : State} (h : Keeps k s t) : Keeps k s t.actClearLog :=
  h.setLog (fun _ => ⟨Nat.zero_le _, Nat.zero_le _, fun _ => ⟨rfl, rfl⟩⟩) rfl

theorem Keeps.act {k : CageId} {s t : State} (h : Keeps k s t) {c : Code} {d : Directive} : Keeps k s (t.act k c d) := by
  cases c
  · exact h.actReseat
  · exact h.actResume
  · exact h.actForget
  · exact h.actRestoreNow
  · exact h.actFreeze
  · exact h.actThaw
  · exact h.submitAll
  · exact h.actInject
  · exact h.submitAll
  · exact h.actClearLog
  · exact h.actReload

theorem Keeps.actOrWait {k : CageId} {s t : State} (h : Keeps k s t) {c : Code} {d : Directive} :
    Keeps k s (t.actOrWait k c d) := by
  unfold State.actOrWait
  split
  · exact h.placeDirective
  · split
    · split
      · exact h.discardSlot.act
      · exact h.placeDirective
    · exact h.act

theorem Keeps.arrive {k : CageId} {s t : State} (h : Keeps k s t) {d : Directive} : Keeps k s (t.arrive k d) := by
  unfold State.arrive
  split
  · exact h.refuse
  · split
    · exact h.refuse
    · split
      · exact h.act
      · exact h.actOrWait

theorem Keeps.takeSlot {k : CageId} {s t : State} (h : Keeps k s t) : Keeps k s (t.takeSlot k) := by
  unfold State.takeSlot
  split
  · exact h
  · exact h.setSlot.arrive

theorem Keeps.enterTarget {k : CageId} {s t : State} (h : Keeps k s t) {g : ReturnTarget} :
    Keeps k s (t.enterTarget k g) := by
  cases g
  · exact h.idleTimer.enter.submit.takeSlot
  · exact h.idleTimer.toLive.submit.takeSlot
  · exact h.idleTimer.enter.takeSlot

theorem Keeps.busStuckMove {k : CageId} {s t : State} (h : Keeps k s t) : Keeps k s (t.busStuckMove k) := by
  unfold State.busStuckMove
  split
  · exact h
  · exact h
  · exact h
  · exact h.leaveLists.stopSeqWork.idleTimer.enter.modGate.takeSlot

end Sys2Proof.Machine
end

