-- ==== Sys2Proof/Laws/Code.lean ====
section
/-! SUPPORT. What the code of the Journal Store can do: the syndromes it gives to the data and field bits, the syndrome
that a slot's check bits give against those recomputed, and the record that a CORRECTED read restores (R191–R193). -/

namespace Sys2Proof.Machine

/-! ## The syndromes -/

theorem oddSyndromes_length : oddSyndromes.length = 120 := by decide +kernel

theorem oddSyndromes_nodup : oddSyndromes.Nodup := by decide +kernel

theorem pickColumns_length (order : Nat → Nat) (n : Nat) (left : List Byte) :
    (pickColumns order left n).length = n := by
  induction n generalizing left with
  | zero => rfl
  | succ n ih => simp [pickColumns, ih]

theorem nodup_getElem_ne {l : List Byte} (nd : l.Nodup) {i j : Nat} (hi : i < l.length) (hj : j < l.length)
    (h : i ≠ j) : l[i] ≠ l[j] := by
  have p := List.pairwise_iff_getElem.1 nd
  rcases Nat.lt_or_gt_of_ne h with h | h
  · exact p i j hi hj h
  · exact (p j i hj hi h).symm

theorem pickColumns_spec (order : Nat → Nat) (n : Nat) (left : List Byte) (h : n ≤ left.length) (nd : left.Nodup) :
    (pickColumns order left n).Nodup ∧ ∀ b ∈ pickColumns order left n, b ∈ left := by
  induction n generalizing left with
  | zero => simp [pickColumns]
  | succ n ih =>
    have hi : order n % left.length < left.length := Nat.mod_lt _ (by omega)
    obtain ⟨n1, m1⟩ := ih (left.eraseIdx (order n % left.length))
      (by rw [List.length_eraseIdx_of_lt hi]; omega) (nd.eraseIdx _)
    have e : left.getD (order n % left.length) 0 = left[order n % left.length] := by simp [hi]
    have out : left[order n % left.length] ∉ left.eraseIdx (order n % left.length) := by
      rw [List.mem_eraseIdx_iff_getElem]
      rintro ⟨j, hj, hne, he⟩
      exact nodup_getElem_ne nd hj hi hne he
    simp only [pickColumns, e, List.nodup_cons, List.mem_cons]
    refine ⟨⟨fun hm => out (m1 _ hm), n1⟩, ?_⟩
    rintro b (rfl | hb)
    · exact List.getElem_mem hi
    · exact List.mem_of_mem_eraseIdx (m1 b hb)

theorem columns_length : columns.length = codedBits := pickColumns_length _ _ _

/-- Each data and field bit has its own syndrome (R192). -/
theorem columns_nodup : columns.Nodup :=
  (pickColumns_spec _ _ _ (by rw [oddSyndromes_length]; decide) oddSyndromes_nodup).1

/-- The syndrome of a data or field bit has an odd number of bits set, three or more (R192). -/
theorem columns_odd {b : Byte} (h : b ∈ columns) : bitCount b % 2 = 1 ∧ 3 ≤ bitCount b := by
  have hb := (pickColumns_spec _ _ _ (by rw [oddSyndromes_length]; decide) oddSyndromes_nodup).2 b h
  simpa [oddSyndromes] using (List.mem_filter.1 hb).2

theorem namedBit?_some {b : Byte} {i : Nat} (h : namedBit? b = some i) : i < codedBits ∧ columns.getD i 0 = b := by
  obtain ⟨hi, hb, -⟩ := List.findIdx?_eq_some_iff_getElem.1 h
  exact ⟨columns_length ▸ hi, by simpa [hi] using hb⟩

/-- A data or field bit's own syndrome names it (R192). -/
theorem namedBit?_columns {i : Nat} (h : i < codedBits) : namedBit? (columns.getD i 0) = some i := by
  have hi : i < columns.length := columns_length ▸ h
  refine List.findIdx?_eq_some_iff_getElem.2 ⟨hi, by simp [hi], fun j hj => ?_⟩
  have : columns[j] ≠ columns[i] := nodup_getElem_ne columns_nodup (by omega) hi (by omega)
  simpa [hi] using this

/-! ## Bits -/

@[simp] theorem flipBit_length (bs : List Byte) (i : Nat) : (flipBit bs i).length = bs.length := by simp [flipBit]

theorem flipBit_flipBit (bs : List Byte) (i : Nat) : flipBit (flipBit bs i) i = bs := by
  apply List.ext_getElem?
  intro j
  by_cases hj : i / 8 = j
  · subst hj
    simp [flipBit, Function.comp_def]
  · simp [flipBit, hj]

theorem bitAt_flipBit (bs : List Byte) (i j : Nat) (h : i < 8 * bs.length) :
    bitAt (flipBit bs i) j = (bitAt bs j != decide (j = i)) := by
  have hlt : i / 8 < bs.length := by omega
  by_cases hq : i / 8 = j / 8
  · have hj : j / 8 < bs.length := hq ▸ hlt
    have hm : j % 8 < 8 := Nat.mod_lt _ (by decide)
    have : (i % 8 = j % 8) ↔ (j = i) := by omega
    simp [bitAt, flipBit, hq, hj, hm]
    by_cases e : j = i <;> simp [e]
    omega
  · have : j ≠ i := fun e => hq (by rw [e])
    simp [bitAt, flipBit, hq, this]

theorem xor_fold_flip (f g : Nat → Byte) (c : Byte) (i : Nat) :
    ∀ l : List Nat, l.Nodup → i ∈ l → (∀ j, j ≠ i → g j = f j) → g i = f i ^^^ c →
      (l.map g).foldr (· ^^^ ·) 0 = (l.map f).foldr (· ^^^ ·) 0 ^^^ c := by
  intro l nd hi ho he
  induction l with
  | nil => simp at hi
  | cons a l ih =>
    rw [List.nodup_cons] at nd
    by_cases ha : a = i
    · subst ha
      have : l.map g = l.map f := List.map_congr_left fun j hj => ho j fun e => nd.1 (e ▸ hj)
      simp only [List.map_cons, List.foldr_cons, he, this]
      rw [BitVec.xor_assoc, BitVec.xor_assoc, BitVec.xor_comm c]
    · have hm : i ∈ l := by simpa [Ne.symm ha] using hi
      simp only [List.map_cons, List.foldr_cons, ih nd.2 hm, ho a ha, BitVec.xor_assoc]

/-- One flipped data or field bit changes the check bits by its syndrome (R192). -/
theorem checkCode_flipBit (bs : List Byte) (i : Nat) (h : i < codedBits) (hb : bs.length = 14) :
    checkCode (flipBit bs i) = checkCode bs ^^^ columns.getD i 0 := by
  have hlt : i < 8 * bs.length := by rw [hb]; exact h
  refine xor_fold_flip _ _ _ i _ List.nodup_range (List.mem_range.2 h) (fun j hj => ?_) ?_
  · simp [columnOf, bitAt_flipBit bs i j hlt, hj]
  · by_cases hs : bitAt bs i <;> simp [columnOf, bitAt_flipBit bs i i hlt, hs]

/-! ## A slot -/

@[simp] theorem Record.encoded_length (r : Record) : r.encoded.length = 14 := by simp [Record.encoded]

/-- The record that a CORRECTED read gives is the record written into the slot (R193). -/
theorem Slot.restored_eq (x : Slot) :
    x.restored = x.record.encoded := by
  cases hn : namedBit? x.syndrome <;> simp [Slot.restored, Slot.stored, hn, flipBit_flipBit]

/-- The syndrome is the difference between the check bits a slot holds and those recomputed from what is stored
(R192). -/
theorem Slot.syndrome_eq (x : Slot) : x.checkBits ^^^ checkCode x.stored = x.syndrome := by
  rw [Slot.checkBits, BitVec.xor_comm (checkCode _), BitVec.xor_assoc, BitVec.xor_self, BitVec.xor_zero]

/-- Where the syndrome names a data or field bit, the check bits are those of the record written (R191, R192). -/
theorem Slot.checkBits_named {x : Slot} {i : Nat} (h : namedBit? x.syndrome = some i) :
    x.checkBits = checkCode x.record.encoded := by
  obtain ⟨hi, hc⟩ := namedBit?_some h
  rw [Slot.checkBits, Slot.stored, h]
  simp only [checkCode_flipBit _ _ hi (Record.encoded_length _), hc, BitVec.xor_assoc, BitVec.xor_self, BitVec.xor_zero]

/-- A slot written back reads CLEAN, with the check bits of its record (R193). -/
theorem Slot.rewritten_clean (x : Slot) : classify x.rewritten.syndrome = .clean := by
  simp [Slot.rewritten, classify]

/-! ## The class of a read -/

/-- Two flipped data or field bits give a syndrome that names no bit (R192), since it has an even number of bits set. -/
theorem classify_even {b : Byte} (h0 : b ≠ 0) (h : bitCount b % 2 = 0) : classify b = .uncorrectable := by
  have h1 : bitCount b ≠ 1 := by omega
  rw [classify, if_neg h0, if_neg h1, if_pos h]

theorem classify_named {b : Byte} (h : (namedBit? b).isSome) : classify b = .corrected := by
  obtain ⟨i, hi⟩ := Option.isSome_iff_exists.1 h
  have ⟨hlt, hb⟩ := namedBit?_some hi
  have hm : b ∈ columns := by
    have : i < columns.length := columns_length ▸ hlt
    rw [← hb]; simp [this]
  obtain ⟨ho, h3⟩ := columns_odd hm
  have h0 : b ≠ 0 := by rintro rfl; exact absurd h3 (by decide)
  have h1 : bitCount b ≠ 1 := by omega
  have h2 : bitCount b % 2 ≠ 0 := by omega
  rw [classify, if_neg h0, if_neg h1, if_neg h2, if_pos h]

end Sys2Proof.Machine
end

