-- ==== Sys2Proof/Laws/Sequencer.lean ====
section
/-! SUPPORT. What the shared operations of the sequencer do, once for each. -/

namespace Sys2Proof.Machine

/-- The sequencer record at the step into SETTLE (R50–R54). -/
theorem Seq.enter_settle (pol mint) (q : Seq) : q.enter pol mint .settle =
    { q with state := .settle, adoptPending := false, decision := false, mrst := true, mlpw := true, ppres := false,
             pint := false } := by
  simp [Seq.enter, mrstFor, mlpwFor, pintFor, CageState.relays, CageState.clearsDecision]
  unfold ppresFor; split <;> simp_all [CageState.relays]

/-- The sequencer record at the step into a state that relays (R50–R53). -/
theorem Seq.enter_relays (pol mint) (q : Seq) (st : CageState) (h : st.relays = true) : q.enter pol mint st =
    { q with state := st, adoptPending := false, decision := false, ppres := true, pint := mint } := by
  cases st <;> simp [CageState.relays] at h <;> simp [Seq.enter, mrstFor, mlpwFor, pintFor, CageState.relays,
      CageState.clearsDecision] <;> (cases pol <;> rfl)

/-- PPRES_n in the states that wait (R52). -/
theorem ppresFor_waiting (pol : PresencePolicy) (st : CageState) (h : st = .queued ∨ st = .staged) : ppresFor pol st =
    decide (pol = .early) := by
  rcases h with rfl | rfl <;> cases pol <;> rfl

/-- Everything the step into SETTLE does after a change of the cage that leaves its flags and active set alone (R54,
    R90). -/
theorem State.toSettle_modCage (s : State) (k : CageId) (f : Cage → Cage)
    (h1 : ∀ c, (f c).seq.adoptionDue = c.seq.adoptionDue) (h2 : ∀ c, (f c).gate.adoptionDue = c.gate.adoptionDue)
    (h3 : ∀ t c, f (c.adopted t) = (f c).adopted t) :
    (s.modCage k f).toSettle k = (s.adoptSeq k).modCage k fun c0 =>
      let c := f c0
      { c with
        seq := { c.seq.enter s.profile.policy c.mint .settle with
          attempt := none, due := .none, bootCaptured := false, ret := none, started := false }
        timer := PhaseTimer.ofPhase c.seq.active .settle } := by
  unfold State.toSettle State.startPhase State.enter
  rw [State.modCage_modCage, State.adoptSeq_modCage]
  · rw [State.modCage_modCage]; rfl
  · intro c; exact h1 c
  · intro c; exact h2 c
  · intro t c; simp only [h3]; rfl

/-- Everything the start of a cursor return does after such a change (R16, R63, R90). -/
theorem State.startReturn_modCage (s : State) (k : CageId) (f : Cage → Cage) (tgt : ReturnTarget)
    (h1 : ∀ c, (f c).seq.adoptionDue = c.seq.adoptionDue) (h2 : ∀ c, (f c).gate.adoptionDue = c.gate.adoptionDue)
    (h3 : ∀ t c, f (c.adopted t) = (f c).adopted t) :
    (s.modCage k f).startReturn k tgt = (s.adoptSeq k).modCage k fun c0 =>
      let c := f c0
      { c with
        timer := if c.seq.carried.isSome then { c.timer with use := .idle } else { use := .ret, elapsed := 0 }
        seq := { c.seq with attempt := none, due := .none, started := !c.gate.stallBusy
                            ret := some { target := tgt, goal := c.gate.ctrl, retry := .inHand } } } := by
  unfold State.startReturn
  rw [State.adoptSeq_modCage _ _ _ h1 h2 h3, State.modCage_modCage]; rfl

/-- Everything the step into QUEUED does after a change of the cage (R65, R98, R101). -/
theorem State.toQueued_modCage (s : State) (k : CageId) (f : Cage → Cage) : (s.modCage k f).toQueued k =
    let u := ({ s with power := s.power.join k (f (s.cage k)).seq.powerClass } : State).modCage k fun c0 =>
      let c := f c0
      { c with
        seq := { c.seq.enter s.profile.policy c.mint .queued with attempt := none, due := .none, ret := none,
                                                                  started := false }
        timer := { use := .wait, elapsed := 0 } }
    if s.power.list.isEmpty then u.checkHead else u := by
  unfold State.toQueued State.enter State.startWait State.joinList
  rw [State.modCage_modCage, State.modCage_modCage]
  simp only [State.cage_modCage_same]
  rfl

/-- Everything the step into STAGED does after a change of the cage (R68, R110). -/
theorem State.toStaged_modCage (s : State) (k : CageId) (f : Cage → Cage) : (s.modCage k f).toStaged k =
    ({ s with staged := s.staged ++ [k] } : State).modCage k fun c0 =>
      let c := f c0
      { c with
        seq := { c.seq.enter s.profile.policy c.mint .staged with attempt := none, due := .none, ret := none, started := false }
        timer := { use := .wait, elapsed := 0 } } := by
  unfold State.toStaged State.enter State.startWait
  rw [State.modCage_modCage, State.modCage_modCage]; rfl

/-- An adoption does not read the lists, the power record, the notices or the store (R90). -/
theorem State.adoptSeq_shared (s : State) (k : CageId) (l1 : List CageId) (p : Power) (n : NoticePort) (st : Store) :
   ({ s with staged := l1, power := p, notice := n, store := st } : State).adoptSeq k =
       { s.adoptSeq k with staged := l1, power := p, notice := n, store := st } := by
  unfold State.adoptSeq
  cases hp : s.pendingTiming with
  | none => simp only [hp]
  | some t =>
    simp only
    by_cases hd : (s.cage k).seq.adoptionDue = true
    · have hd' : (State.cage { s with staged := l1, power := p, notice := n, store := st } k).seq.adoptionDue = true := hd
      rw [← hp, if_pos hd, if_pos hd']
      unfold State.settlePending
      by_cases ha : (s.modSeq k fun q => { q with active := t, adoptionDue := false }).anyAdoptionDue = true
      · rw [if_pos ha, if_pos (by exact ha)]; rfl
      · rw [if_neg ha, if_neg (by exact ha)]; rfl
    · have hd' : ¬ (State.cage { s with staged := l1, power := p, notice := n, store := st } k).seq.adoptionDue = true :=
        hd
      rw [← hp, if_neg hd, if_neg hd']

/-- Everything that leaving the lists does (R99, R102, R110). -/
theorem State.leaveLists_eq (s : State) (k : CageId) : s.leaveLists k = s.unlisted k := by
  unfold State.leaveLists State.unlisted State.stateOf State.leaveList
  have h : s.power.headIs k = s.power.list.head?.any fun e => e.cage = k := by
    unfold Power.headIs
    cases s.power.list <;> rfl
  rw [h]
  rfl

/-- What the answers make of an attempt in hand while no other use of the stall timer waits (R84). -/
theorem State.attemptEnd_answered (s : State) (k : CageId) (answers : List Response) (at' : Attempt) (h1 : (s.cage
    k).seq.attempt = some at') (h2 : (s.cage k).seq.started = true) (h3 : (s.cage k).gate.stuckForSeq =
        false) (h4 : (s.cage k).gate.stallBusy = false) :
   s.attemptEnd k answers = some (runAttempt (s.cage k).gate.modc at' at'.todo answers) := by
    simp [State.attemptEnd, h1, h2, h3, h4]

/-- A poll that has not matched captures nothing (R86). -/
@[simp] theorem Seq.capture_false (q : Seq) (began : Nat) : q.capture false began = q := by simp [Seq.capture]

/-- With no attempt in hand compare B discards no time (R86). -/
theorem Seq.uncapture_idle {q : Seq} (h : q.attempt = none) : q.uncapture = q := by
  cases q; simp_all [Seq.uncapture, Seq.captures]

/-- Everything that the end of a carried transaction does where a cursor return waits for it (R81, R85, R88). -/
theorem State.accountCarried_return (s : State) (k : CageId) (t : Trans) (a : Response) (r : SeqReturn)
    (h : (s.cage k).seq.ret = some r) : cageBecomes k { s.cage k with
      gate := { (s.cage k).gate with modc := (s.cage k).gate.modc.account t a }
      timer := { use := .ret, elapsed := 0 }
      seq := { (s.cage k).seq with carried := none, started := !(s.cage k).gate.stallBusy } } s (s.accountCarried k t a) := by
  unfold State.accountCarried
  refine cageBecomes_modCage ?_
  simp only [h, Option.isSome_some, if_true, PhaseTimer.ofReturn]

/-- Everything that stopping an attempt does (R85, R86). -/
theorem State.stopAttempt_eq (s : State) (k : CageId) (carried : Option Response) :
   s.stopAttempt k carried = s.modCage k fun c =>
    let m := (match (s.cage k).seqTrans?, carried with
      | some tr, some r => c.gate.modc.account tr r
      | _, _ => c.gate.modc);
    let l := (match carried with | some _ => none | none => (s.cage k).seqTrans?);
    { c with
      gate := { (if (s.cage k).gate.stuckForSeq then c.gate.endStuck else c.gate) with modc := m }
      timer := { c.timer with elapsed := max c.timer.elapsed (s.cage k).compareB }
      seq := { c.seq.uncapture with attempt := none, due := .none, ret := none, started := false, carried := l } } := by
  unfold State.stopAttempt State.stopSeqWork State.accountCarried State.reach State.modSeq
  cases ht : (s.cage k).seqTrans? <;> cases carried <;> dsimp only <;> (repeat rw [State.modCage_modCage]) <;>
    apply State.modCage_congr <;> by_cases hg : (s.cage k).gate.stuckForSeq = true <;> simp only [hg, if_true] <;> rfl

/-- Everything RESEAT does outside EMPTY and RESTORE (R183). -/
theorem State.reseatNow_eq (s : State) (k : CageId) :
    s.reseatNow k = ((s.unlisted k).adoptSeq k).modCage k fun c =>
      { c with
          seq := { c.seq with state := .settle, adoptPending := false, decision := false, mrst := true, mlpw := true,
                              ppres := false, pint := false, attempt := none, due := .none, bootCaptured := false,
                              ret := none, started := false, carried := (s.cage k).seqTrans? }
          timer := { use := .phase .settle none c.seq.active.settle, elapsed := 0 }
          gate := if c.gate.stuckForSeq then { c.gate with
              clearing := false, stallElapsed := 0,
              stallUse := if c.gate.inHand.isSome then .upstream else .stopped }
            else c.gate } := by
  unfold State.reseatNow
  rw [State.leaveLists_eq]
  unfold State.stopSeqWork
  rw [State.toSettle_modCage]
  · apply State.modCage_congr
    dsimp only
    rw [Seq.enter_settle]
    split
    · rename_i hg
      have hs : (((s.unlisted k).adoptSeq k).cage k).gate.stretching = false := by
        have h := hg
        unfold Gate.stuckForSeq at h
        simpa using (Bool.and_eq_true_iff.mp h).1
      unfold Gate.endStuck
      rw [hs]
      rfl
    · rfl
  · intro c; rfl
  · intro c; dsimp only; split <;> rfl
  · intro t c; rfl

end Sys2Proof.Machine
end

