-- ==== Sys2Proof/Laws/Restore.lean ====
section
/-! SUPPORT. What the shared operations of a channel do, once for each. -/

namespace Sys2Proof.Machine

/-- A clean slot is read without effect (R192). -/
theorem State.readSlot_clean (s : State) (k i) (h : s.clean i) : s.readSlot k i = (s, true) := by
  unfold State.readSlot; simp only; rw [show (SlotMem.read s.store.slots i).syndrome = 0 from h]; rfl

/-- The start of a located write from a clean slot (R113, R114). -/
theorem State.startWrite_clean (s : State) (ch : Fin 4) (x : ChannelCtx) (i : Nat) (hseg : ((s.cage x.cage).journal.segment x.segIndex)[x.recIndex]? = some i)
    (hc : s.clean i) :
    s.startWrite ch x = s.modChannel ch fun h =>
      h.begun ({ x with stage := .replay, pass := .write }.working (.write (s.recordIn i))) := by
  unfold State.startWrite
  simp only [hseg, State.readSlot_clean s _ _ hc, if_true]
  unfold State.setCtx State.startDelay
  rw [State.modChannel_modChannel]; rfl

/-- The next segment to replay is the first that holds a record (R113). -/
theorem CageRecord.nextSegment_firstFrom (j : CageRecord) (i n l : Nat) (h : j.firstFrom i n l) : j.nextSegment i =
    some n := by
  obtain ⟨h1, h2, rest, h3⟩ := h
  unfold CageRecord.nextSegment
  have hn : n < j.segments.length := by
    by_contra hh; rw [List.getElem?_eq_none (by omega)] at h3; cases h3
  rw [List.find?_range_eq_some]
  refine ⟨?_, by simpa using hn, fun m hm => ?_⟩
  · simp [h1, CageRecord.segment, h3]
  · by_cases him : i ≤ m
    · simp [CageRecord.segment, h2 m him hm]
    · simp [him]

/-- Its first record. -/
theorem CageRecord.segment_firstFrom (j : CageRecord) (i n l : Nat) (h : j.firstFrom i n l) : (j.segment n)[0]? = some l
    := by
  obtain ⟨h1, h2, rest, h3⟩ := h
  simp [CageRecord.segment, h3]

/-- A journal without records has no segment to replay. -/
theorem CageRecord.nextSegment_empty (j : CageRecord) (h : j.slots = []) (i) : j.nextSegment i = none := by
  unfold CageRecord.nextSegment
  rw [List.find?_eq_none]
  intro n hn
  have : ∀ seg ∈ j.segments, seg = [] := by
    intro seg hs; exact List.flatten_eq_nil_iff.mp h seg hs
  simp at hn
  simp [CageRecord.segment, List.getElem?_eq_getElem hn, this _ (List.getElem_mem hn)]

/-- The start of a segment whose first record is clean (R113, R114). -/
theorem State.startSegment_clean (s : State) (ch : Fin 4) (x : ChannelCtx) (i n l : Nat) (h : (s.cage x.cage).journal.firstFrom i n l)
    (hc : s.clean l) :
    s.startSegment ch x i = s.modChannel ch fun h =>
      h.begun ({ x with stage := .replay, pass := .write, segIndex := n, recIndex := 0, retriesUsed := 0 }.working
        (.write (s.recordIn l))) := by
  unfold State.startSegment
  rw [CageRecord.nextSegment_firstFrom _ _ _ _ h]
  simp only
  exact State.startWrite_clean s ch { x with stage := .replay, segIndex := n, recIndex := 0, retriesUsed := 0, pass := .write } l
    (CageRecord.segment_firstFrom _ _ _ _ h) hc

/-- Everything the failure path does at once where no deferred write is queued (R134). -/
theorem State.failRestore_frame (s : State) (ch : Fin 4) (x : ChannelCtx) (k) (hk : x.cage = k)
    (hq : (s.cage k).buffers.queue = []) :
    bothBecome k { s.cage k with buffers := { (s.cage k).buffers with closed := true } } ch
      { s.channels[ch] with
        delayRunning := true
        delay := 0
        ctx := some { x with stage := .ending, path := .failed, work := .ret (s.cage k).gate.ctrl, retry := .inHand,
                             pointed := false, stuck := .none } } s (s.failRestore ch x) := by
  subst hk
  unfold State.failRestore
  dsimp only
  unfold State.dropQueue State.setCtx
  simp only [State.modChannel_cage, hq]
  simp only [List.find?_nil, List.filter_nil, State.captureEntries]
  unfold State.closeQueue State.modBuffers State.startChanReturn State.setCtx State.startDelay
  simp only [State.modChannel_modCage, State.modCage_modCage, State.modChannel_modChannel]
  refine bothBecome_mod ?_ ?_
  · simp only [← hq]
  · simp only [State.modChannel_cage, State.cage_modCage_same]

/-- The drain of an empty queue begins the cursor return (R129, R130). -/
theorem State.drain_empty (s : State) (ch : Fin 4) (x : ChannelCtx) (hq : (s.cage x.cage).buffers.queue = []) :
   s.drain ch x = (s.modCage x.cage fun c => { c with buffers := { c.buffers with closed := true } }).modChannel ch fun h
       => h.begun ({ x with stage := if x.path = ChanPath.failed then ChanStage.ending
                            else ChanStage.ret }.working (.ret (s.cage x.cage).gate.ctrl)) := by
  unfold State.drain; simp only [hq]
  unfold State.closeQueue State.modBuffers State.startChanReturn State.setCtx State.startDelay
  rw [State.modChannel_modChannel]
  simp only [State.cage_modCage_same]
  congr 1; funext h
  cases x.path <;> rfl

/-- A record is verified where it is PLAIN and its rule says VERIFY (R119). -/
theorem verifies_iff (t : List Rule) (r : Record) : verifies t r = true ↔ r.kind = .plain ∧ ∃ u, t[r.rule]? = some u ∧
    u.verify = true := by
  unfold verifies
  cases t[r.rule]? <;> simp

/-- The verify pass goes on with the next record whose rule verifies (R119). -/
theorem State.startVerify_next (s : State) (ch : Fin 4) (x : ChannelCtx) (k) (hk : x.cage = k) (a n i : Nat)
    (h1 : a ≤ n) (h2 : ((s.cage k).journal.segment x.segIndex)[n]? = some i)
    (h3 : verifies s.profile.rules (s.recordIn i) = true)
    (h4 : ∀ m j, a ≤ m → m < n → ((s.cage k).journal.segment x.segIndex)[m]? = some j →
       verifies s.profile.rules (s.recordIn j) = false) (hc : s.clean i) :
    s.startVerify ch x a = s.modChannel ch fun h =>
      h.begun ({ x with pass := .verify, recIndex := n }.working (.verify (s.recordIn i))) := by
  subst hk
  unfold State.startVerify
  dsimp only
  have hn : n < ((s.cage x.cage).journal.segment x.segIndex).length := by
    by_contra hh; rw [List.getElem?_eq_none (by omega)] at h2; cases h2
  have hg : ((s.cage x.cage).journal.segment x.segIndex).getD n 0 = i := by simp [List.getD, h2]
  have hf : (List.range ((s.cage x.cage).journal.segment x.segIndex).length).find? (fun n =>
      decide (a ≤ n) && verifies s.profile.rules (s.recordIn (((s.cage x.cage).journal.segment x.segIndex).getD n 0))) =
          some n := by
    rw [List.find?_range_eq_some]
    refine ⟨by rw [hg, h3]; simp [h1], by simpa using hn, fun m hm => ?_⟩
    by_cases ha : a ≤ m
    · have hm' : m < ((s.cage x.cage).journal.segment x.segIndex).length := by omega
      have := h4 m _ ha hm (List.getElem?_eq_getElem hm')
      simp [ha, List.getD, List.getElem?_eq_getElem hm', this]
    · simp [ha]
  rw [hf]
  simp only [hg, State.readSlot_clean s _ _ hc, if_true]
  unfold State.setCtx State.startDelay
  rw [State.modChannel_modChannel]; rfl

/-- The verify pass ends where no such record is left (R121). -/
theorem State.startVerify_none (s : State) (ch : Fin 4) (x : ChannelCtx) (k) (hk : x.cage = k) (a : Nat)
   (h4 : ∀ m j, a ≤ m → ((s.cage k).journal.segment x.segIndex)[m]? = some j → verifies s.profile.rules (s.recordIn j) =
       false) :
   s.startVerify ch x a = s.segmentVerified ch { x with pass := .verify } := by
  subst hk
  unfold State.startVerify
  dsimp only
  have hf : (List.range ((s.cage x.cage).journal.segment x.segIndex).length).find? (fun n =>
      decide (a ≤ n) && verifies s.profile.rules (s.recordIn (((s.cage x.cage).journal.segment x.segIndex).getD n 0))) =
          none := by
    rw [List.find?_eq_none]
    intro m hm
    simp at hm
    by_cases ha : a ≤ m
    · have := h4 m _ ha (List.getElem?_eq_getElem hm)
      simp [ha, List.getD, List.getElem?_eq_getElem hm, this]
    · simp [ha]
  rw [hf]

/-! ## Reads that are not clean (R192–R194) -/

theorem State.classify_correctable (s : State) (i) (h : s.correctable i) :
    classify (SlotMem.read s.store.slots i).syndrome = .corrected := by
  rcases h with h | h
  · have h0 : (SlotMem.read s.store.slots i).syndrome ≠ 0 := fun e => by
      rw [e] at h
      exact absurd h (by decide)
    rw [classify, if_neg h0, if_pos h]
  · exact classify_named h

theorem State.classify_uncorrectable (s : State) (i) (h : s.uncorrectable i) :
    classify (SlotMem.read s.store.slots i).syndrome = .uncorrectable := by
  obtain ⟨h0, h1⟩ := h
  have h2 : ¬(SlotMem.read s.store.slots i).syndrome = 0 := h0
  have ha : ¬bitCount (SlotMem.read s.store.slots i).syndrome = 1 := fun e => h1 (.inl e)
  have hb : ¬(namedBit? (SlotMem.read s.store.slots i).syndrome).isSome = true := fun e => h1 (.inr e)
  rw [classify, if_neg h2, if_neg ha, if_neg hb]
  split <;> rfl

/-- A CORRECTED read writes back, counts and logs, and gives the record (R193). -/
theorem State.readSlot_correctable (s : State) (k i) (h : s.correctable i) :
    s.readSlot k i = (s.corrected k (s.cage k).seq.shown i, true) := by
  unfold State.readSlot
  simp only [s.classify_correctable i h]
  rfl

/-- An UNCORRECTABLE read logs, makes the journal DAMAGED and gives no record (R194). -/
theorem State.readSlot_uncorrectable (s : State) (k i) (h : s.uncorrectable i) :
    s.readSlot k i = ((s.takeFault (s.slotFault .uncorrectable k (s.cage k).seq.shown i)).modJournal k
      (fun j => { j with state := .damaged }), false) := by
  unfold State.readSlot
  simp only [s.classify_uncorrectable i h]
  rfl

/-- The start of a located write goes by the read of its record (R114, R122). -/
theorem State.startWrite_read (s : State) (ch : Fin 4) (x : ChannelCtx) (i : Nat)
    (hseg : ((s.cage x.cage).journal.segment x.segIndex)[x.recIndex]? = some i) :
    s.startWrite ch x = if (s.readSlot x.cage i).2 then
        (s.readSlot x.cage i).1.modChannel ch fun h =>
          h.begun ({ x with stage := .replay, pass := .write }.working (.write (s.recordIn i)))
      else (s.readSlot x.cage i).1.failRestore ch x := by
  unfold State.startWrite
  simp only [hseg]
  split
  · unfold State.setCtx State.startDelay
    rw [State.modChannel_modChannel]
    rfl
  · rfl

/-- A frame from a state in which the cage and the channel have already changed. -/
theorem bothBecome_of_mod {k : CageId} {c : Cage} {ch : Fin 4} {h : Channel} {s t : State} {f : Cage → Cage}
    {g : Channel → Channel} (hb : bothBecome k c ch h ((s.modCage k f).modChannel ch g) t) : bothBecome k c ch h s t := by
  obtain ⟨b1, b2, b3, b4, b5⟩ := hb
  exact ⟨b1, fun j hj => (b2 j hj).trans (State.cage_modCage_other _ _ _ _ hj), b3,
    fun d hd => (b4 d hd).trans (State.modChannel_other (s.modCage k f) ch d g hd), b5⟩

theorem bothBecome_of_modCage {k : CageId} {c : Cage} {ch : Fin 4} {h : Channel} {s t : State} {f : Cage → Cage}
    (hb : bothBecome k c ch h (s.modCage k f) t) : bothBecome k c ch h s t := by
  obtain ⟨b1, b2, b3, b4, b5⟩ := hb
  exact ⟨b1, fun j hj => (b2 j hj).trans (State.cage_modCage_other _ _ _ _ hj), b3, b4, b5⟩

/-- Everything the start of a located write does, by the read of its record (R114, R122, R193, R194). -/
theorem State.startWrite_frames (s : State) (ch : Fin 4) (x : ChannelCtx) (k : CageId) (hk : x.cage = k) (i : Nat)
    (hseg : ((s.cage k).journal.segment x.segIndex)[x.recIndex]? = some i) :
    let c := s.cage k
    let writes := s.channels[ch].begun ({ x with stage := .replay, pass := .write }.working (.write (s.recordIn i)))
    (s.clean i → bothBecome k c ch writes s (s.startWrite ch x)) ∧
    (s.correctable i → bothBecome k c ch writes (s.corrected k c.seq.shown i) (s.startWrite ch x)) ∧
    (s.uncorrectable i → c.buffers.queue = [] →
      bothBecome k { c with
          journal := { c.journal with state := .damaged }
          buffers := { c.buffers with closed := true } } ch
        (s.channels[ch].begun ({ x with stage := .ending, path := .failed }.working (.ret c.gate.ctrl)))
        (s.takeFault (s.slotFault .uncorrectable k c.seq.shown i)) (s.startWrite ch x)) := by
  subst hk
  rw [State.startWrite_read s ch x i hseg]
  refine ⟨fun hc => ?_, fun hc => ?_, fun hc hq => ?_⟩
  · rw [State.readSlot_clean _ _ _ hc, if_pos rfl]
    exact bothBecome_of_modCage (f := id) (by
      rw [State.modCage_id s x.cage id rfl]
      have := bothBecome_mod (k := x.cage) (f := id) (ch := ch) (s := s) (g := fun h =>
        h.begun ({ x with stage := .replay, pass := .write }.working (.write (s.recordIn i)))) rfl rfl
      rwa [State.modCage_id s x.cage id rfl] at this)
  · rw [State.readSlot_correctable _ _ _ hc, if_pos rfl]
    have := bothBecome_mod (k := x.cage) (f := id) (ch := ch) (s := s.corrected x.cage (s.cage x.cage).seq.shown i)
      (g := fun h => h.begun ({ x with stage := .replay, pass := .write }.working (.write (s.recordIn i)))) rfl rfl
    rwa [State.modCage_id (s.corrected x.cage (s.cage x.cage).seq.shown i) x.cage id rfl] at this
  · rw [State.readSlot_uncorrectable _ _ _ hc, if_neg Bool.false_ne_true]
    unfold State.modJournal
    have h := State.failRestore_frame ((s.takeFault (s.slotFault .uncorrectable x.cage (s.cage x.cage).seq.shown i)).modCage
      x.cage fun c => { c with journal := { c.journal with state := .damaged } }) ch x x.cage rfl
      (by rw [State.cage_modCage_same]; exact hq)
    rw [State.cage_modCage_same] at h
    exact bothBecome_of_modCage h

/-- The start of the next segment is that of its first record (R113). -/
theorem State.startSegment_firstFrom (s : State) (ch : Fin 4) (x : ChannelCtx) (i n l : Nat)
    (h : (s.cage x.cage).journal.firstFrom i n l) :
    s.startSegment ch x i = s.startWrite ch { x with stage := .replay, segIndex := n, recIndex := 0, retriesUsed := 0,
                                                     pass := .write } := by
  unfold State.startSegment
  rw [CageRecord.nextSegment_firstFrom _ _ _ _ h]

/-! ## Directives taken at a boundary or the completion point (R136, R137) -/

/-- An adoption point of the sequencer does not turn on a change of a channel that keeps its flag (R90). -/
theorem State.adoptSeq_modChannel (s : State) (k : CageId) (ch : Fin 4) (g : Channel → Channel)
    (hg : ∀ h, (g h).adoptionDue = h.adoptionDue) :
    (s.modChannel ch g).adoptSeq k = (s.adoptSeq k).modChannel ch g := by
  unfold State.adoptSeq
  cases hp : s.pendingTiming with
  | none => rw [show (s.modChannel ch g).pendingTiming = none from hp]
  | some t =>
    rw [show (s.modChannel ch g).pendingTiming = some t from hp]
    dsimp only
    by_cases hd : (s.cage k).seq.adoptionDue = true
    · rw [if_pos hd, if_pos (show ((s.modChannel ch g).cage k).seq.adoptionDue = true from hd)]
      unfold State.settlePending
      have e : ((s.modChannel ch g).modSeq k fun q => { q with active := t, adoptionDue := false }).anyAdoptionDue
          = (s.modSeq k fun q => { q with active := t, adoptionDue := false }).anyAdoptionDue := by
        unfold State.anyAdoptionDue
        congr 1
        exact Vector.any_set_of_eq s.channels _ ch.val ch.isLt _ (hg _)
      rw [e]
      split <;> rfl
    · rw [if_neg hd, if_neg (show ¬((s.modChannel ch g).cage k).seq.adoptionDue = true from hd)]

/-- Everything RESEAT taken from the slot does where no deferred write is queued (R136). -/
theorem State.reseatRestore_frame (s : State) (ch : Fin 4) (x : ChannelCtx) (k) (hk : x.cage = k)
    (hq : (s.cage k).buffers.queue = []) :
    bothBecome k ((s.adoptSeq k).cage k).reseated ch
      { s.channels[ch] with ctx := none, delayRunning := false, delay := 0 } (s.adoptSeq k) (s.reseatRestore ch x) := by
  subst hk
  let f : Cage → Cage := fun c => { c with
    buffers := Buffers.fresh
    timer := { c.timer with use := .idle }
    seq := { c.seq with attempt := none, due := .none, ret := none, started := false } }
  let g : Channel → Channel := fun h => { h with ctx := none, delayRunning := false, delay := 0 }
  have hs : s.reseatRestore ch x = ((s.modChannel ch g).modCage x.cage f).toSettle x.cage := by
    unfold State.reseatRestore State.dropQueue
    simp only [hq, List.find?_nil, List.filter_nil, State.captureEntries]
    unfold State.clearBuffers State.modBuffers State.releaseChannel State.idleTimer
    simp only [← State.modChannel_modCage, State.modCage_modCage]
    rfl
  rw [hs, State.toSettle_modCage]
  · rw [State.adoptSeq_modChannel s x.cage ch g fun _ => rfl, State.modChannel_modCage]
    refine bothBecome_mod ?_ ?_
    · dsimp only
      rw [Seq.enter_settle]
      rfl
    · rw [(s.adoptSeq_facts x.cage).2.2.1]
  all_goals intros; rfl

/-- Everything FORGET taken from the slot does where no deferred write is queued (R137). -/
theorem State.forgetRestore_frame (s : State) (ch : Fin 4) (x : ChannelCtx) (k) (hk : x.cage = k)
    (hq : (s.cage k).buffers.queue = []) :
    bothBecome k { s.cage k with journal := (s.cage k).journal.emptied
                                 buffers := { (s.cage k).buffers with closed := true } } ch
      (s.channels[ch].begun ({ x with stage := .ret, path := .forgotten }.working (.ret (s.cage k).gate.ctrl)))
      { s with store := { s.store with slots := (s.cage k).journal.slots.foldl SlotMem.free s.store.slots } }
      (s.forgetRestore ch x) := by
  subst hk
  unfold State.forgetRestore
  have he : s.emptyJournal x.cage =
      ({ s with store := { s.store with slots := (s.cage x.cage).journal.slots.foldl SlotMem.free s.store.slots } }
        : State).modCage x.cage fun c => { c with journal := c.journal.emptied } := rfl
  rw [he, State.drain_empty _ _ _ (by rw [State.cage_modCage_same]; exact hq), State.modCage_modCage,
    State.cage_modCage_same]
  exact bothBecome_mod rfl rfl

/-- What the directive slot's look finds (R124 step 1, R128). -/
theorem State.boundaryDirective_none (s : State) (ch : Fin 4) (x : ChannelCtx) (h : (s.cage x.cage).slot = none) :
    s.boundaryDirective ch x = (s, false) := by
  unfold State.boundaryDirective
  rw [h]

theorem State.boundaryDirective_reseat (s : State) (ch : Fin 4) (x : ChannelCtx) (arg : Option Byte)
    (h : (s.cage x.cage).slot = some { code := 0x01, arg := arg }) :
    s.boundaryDirective ch x = ((s.setSlot x.cage none).reseatRestore ch x, true) := by
  unfold State.boundaryDirective
  rw [h]
  rfl

theorem State.boundaryDirective_forget (s : State) (ch : Fin 4) (x : ChannelCtx) (arg : Option Byte)
    (h : (s.cage x.cage).slot = some { code := 0x03, arg := arg }) :
    s.boundaryDirective ch x = ((s.setSlot x.cage none).forgetRestore ch x, true) := by
  unfold State.boundaryDirective
  rw [h]
  rfl

end Sys2Proof.Machine
end

