-- ==== Sys2Proof/Laws/Capture.lean ====
section
/-! SUPPORT. What a capture does: its frame, the records of its working copy, and the slots a commit gives them. -/

namespace Sys2Proof.Machine

/-- Only the journal of cage `k`, the slot pool, the Fault Log and the notices may differ. -/
def CaptureFrame (k : CageId) (s t : State) : Prop :=
  (∃ j, t.cage k = { s.cage k with journal := j }) ∧ othersSame k s t ∧ t.channels = s.channels ∧ t.staged = s.staged ∧
      t.power = s.power ∧ t.loader = s.loader ∧ t.pendingTiming = s.pendingTiming ∧ t.lineReset = s.lineReset ∧ t.pending
          = s.pending

theorem CaptureFrame.refl (k s) : CaptureFrame k s s := ⟨⟨_, rfl⟩, fun _ _ => rfl, rfl, rfl, rfl, rfl, rfl, rfl, rfl⟩

theorem CaptureFrame.trans {k s t u} (a : CaptureFrame k s t) (b : CaptureFrame k t u) : CaptureFrame k s u := by
  obtain ⟨⟨j1, a1⟩, a2, a3, a4, a5, a6, a7, a8, a9⟩ := a
  obtain ⟨⟨j2, b1⟩, b2, b3, b4, b5, b6, b7, b8, b9⟩ := b
  refine ⟨⟨j2, by rw [b1, a1]⟩, fun j hj => (b2 j hj).trans (a2 j hj), b3.trans a3, b4.trans a4, b5.trans a5,
      b6.trans a6, b7.trans a7, b8.trans a8, b9.trans a9⟩

theorem CaptureFrame.modJournal (s k f) : CaptureFrame k s (s.modJournal k f) := ⟨⟨_, State.modJournal_cage_same s k f⟩,
    fun _ hj => State.cage_modCage_other _ _ _ _ hj, rfl, rfl, rfl, rfl, rfl, rfl, rfl⟩

theorem CaptureFrame.of_eq {k s t} (h : t.cages = s.cages) (h2 : t.channels = s.channels) (h3 : t.staged =
    s.staged) (h4 : t.power = s.power) (h5 : t.loader = s.loader) (h6 : t.pendingTiming =
        s.pendingTiming) (h7 : t.lineReset = s.lineReset) (h8 : t.pending = s.pending) : CaptureFrame k s t :=
  ⟨⟨_, State.cage_congr h k⟩, fun j _ => State.cage_congr h j, h2, h3, h4, h5, h6, h7, h8⟩

theorem CaptureFrame.readSlot (s k i) : CaptureFrame k s (s.readSlot k i).1 := by
  unfold State.readSlot; dsimp only; split
  · exact .refl _ _
  · exact .of_eq rfl rfl rfl rfl rfl rfl rfl rfl
  · exact (CaptureFrame.of_eq (k := k) (s := s) rfl rfl rfl rfl rfl rfl rfl rfl).trans (.modJournal _ _ _)

theorem CaptureFrame.readSlots (k) (l : List Nat) : ∀ s : State, CaptureFrame k s (s.readSlots k l).1 := by
  induction l with
  | nil => intro s; exact .refl _ _
  | cons i l ih => intro s; unfold State.readSlots; dsimp only; split
                   · exact (CaptureFrame.readSlot s k i).trans (ih _)
                   · exact CaptureFrame.readSlot s k i

theorem CaptureFrame.spill (s k c n) : CaptureFrame k s (s.spill k c n) := by
  unfold State.spill
  exact (CaptureFrame.modJournal s k fun j => { j with state := .spilled }).trans (.of_eq rfl rfl rfl rfl rfl rfl rfl rfl)

theorem CaptureFrame.commit (s k w) : CaptureFrame k s (s.commit k w) := by
  unfold State.commit
  dsimp only
  exact ⟨⟨_, State.cage_modCage_same _ _ _⟩, fun _ hj => State.cage_modCage_other _ _ _ _ hj, rfl, rfl, rfl, rfl, rfl,
      rfl, rfl⟩

/-- A capture changes nothing else (R27–R41). -/
theorem CaptureFrame.capture (s k sh o d) : CaptureFrame k s (s.capture k sh o d) := by
  unfold State.capture; dsimp only; split
  · split
    · split
      · exact (CaptureFrame.readSlots _ _ _).trans (.spill _ _ _ _)
      · exact (CaptureFrame.readSlots _ _ _).trans (.commit _ _ _)
    · exact CaptureFrame.readSlots _ _ _
  · exact .refl _ _

theorem CaptureFrame.captureEntries (k) (l : List DeferEntry) : ∀ s : State, CaptureFrame k s (s.captureEntries k l) := by
  induction l with
  | nil => intro s; exact .refl _ _
  | cons i l ih => intro s; exact (CaptureFrame.capture s k _ _ _).trans (ih _)

/-- Clean slots are read without effect. -/
theorem State.readSlots_clean (s : State) (k : CageId) : ∀ l : List Nat, (∀ i ∈ l, s.clean i) → s.readSlots k l = (s,
    true)
  | [], _ => rfl
  | i :: l, h => by
    unfold State.readSlots
    have : s.readSlot k i = (s, true) := State.readSlot_clean s k i (h i (by simp))
    rw [this]; simp only [if_true]
    exact State.readSlots_clean s k l fun j hj => h j (by simp [hj])

/-- Freeing slots leaves the others alone. -/
theorem SlotMem.read_foldl_free (i : Nat) : ∀ (l : List Nat) (m : SlotMem), i ∉ l →
    SlotMem.read (l.foldl SlotMem.free m) i = SlotMem.read m i
  | [], _, _ => rfl
  | a :: l, m, h => by
    simp only [List.foldl_cons]
    rw [SlotMem.read_foldl_free i l _ (fun x => h (List.mem_cons_of_mem _ x)), SlotMem.read_free_other (fun e =>
        h (by simp [e]))]

theorem SlotMem.lowestFreeFrom_ge : ∀ (m : SlotMem) (i : Nat), i ≤ SlotMem.lowestFreeFrom i m
  | [], i => Nat.le_refl _
  | (a, x) :: t, i => by
    unfold SlotMem.lowestFreeFrom
    split
    · exact Nat.le_trans (Nat.le_succ _) (SlotMem.lowestFreeFrom_ge t (i+1))
    · exact Nat.le_refl _

/-- The slot a new record takes is free (R19). -/
theorem SlotMem.lowestFreeFrom_free : ∀ (m : SlotMem) (i : Nat), SlotMem.wfFrom i m = true →
    (SlotMem.read m (SlotMem.lowestFreeFrom i m)).used = false
  | [], i, _ => rfl
  | (a, x) :: t, i, h => by
    simp only [SlotMem.wfFrom, Bool.and_eq_true, decide_eq_true_eq] at h
    obtain ⟨⟨h1, h2⟩, h3⟩ := h
    unfold SlotMem.lowestFreeFrom
    split
    · rename_i hc
      simp at hc
      have hge := SlotMem.lowestFreeFrom_ge t (i+1)
      unfold SlotMem.read
      rw [if_neg (by omega)]
      rw [← hc.1] at hge ⊢; exact SlotMem.lowestFreeFrom_free t (a+1) h3
    · rename_i hc
      simp at hc
      unfold SlotMem.read
      split
      · rename_i e; simpa using hc e
      · rename_i e
        rw [SlotMem.read_eq_blank (lo := a + 1) (by omega) h3]; rfl

/-- The slots of the records of a working copy that have one. -/
def slotsOf (ws : List WorkRec) : List Nat := ws.filterMap WorkRec.slot

theorem mem_slotsOf {ws : List WorkRec} {i} : i ∈ slotsOf ws ↔ ∃ w ∈ ws, w.slot = some i := by simp [slotsOf,
    List.mem_filterMap]

theorem slotsOf_append (a b : List WorkRec) : slotsOf (a ++ b) = slotsOf a ++ slotsOf b := by simp [slotsOf]

/-- A rewrite leaves the slots of other records alone (R39). -/
theorem rewrite_other : ∀ (ws : List WorkRec) (m : SlotMem) (mask) (i : Nat), i ∉ slotsOf ws →
    SlotMem.read (rewrite m mask ws).1 i = SlotMem.read m i
  | [], _, _, _, _ => rfl
  | w :: ws, m, mask, i, h => by
    unfold rewrite
    cases hs : w.slot with
    | none =>
      dsimp only
      exact rewrite_other ws m mask i (by simpa [slotsOf, hs] using h)
    | some j =>
      simp [slotsOf, hs] at h
      have h' : i ∉ slotsOf ws := by simp [slotsOf]; exact h.2
      dsimp only
      split
      · rw [rewrite_other ws _ _ i h', SlotMem.read_write_other h.1]
      · exact rewrite_other ws m mask i h'

/-- A rewrite stores the changed records in their slots and leaves the others as they stand (R39). -/
theorem rewrite_own : ∀ (ws : List WorkRec) (m : SlotMem) (mask), SlotMem.wf m = true → (slotsOf ws).Nodup →
   ∀ w ∈ ws, ∀ i, w.slot = some i → (if w.changed then (SlotMem.read (rewrite m mask ws).1 i).record = w.record ∧
       (SlotMem.read (rewrite m mask ws).1 i).used = true else SlotMem.read (rewrite m mask ws).1 i = SlotMem.read m i)
  | [], _, _, _, _ => by simp
  | v :: ws, m, mask, hw, hn => by
    intro w hm i hi
    unfold rewrite
    cases hs : v.slot with
    | none =>
      dsimp only
      rcases List.mem_cons.mp hm with rfl | hm
      · rw [hs] at hi; cases hi
      · exact rewrite_own ws m mask hw (by simpa [slotsOf, hs] using hn) w hm i hi
    | some j =>
      have hn2 : j ∉ slotsOf ws ∧ (slotsOf ws).Nodup := by
        have : slotsOf (v :: ws) = j :: slotsOf ws := by simp [slotsOf, hs]
        rw [this] at hn; exact List.nodup_cons.mp hn
      dsimp only
      by_cases hc : v.changed = true
      · rw [if_pos hc]
        rcases List.mem_cons.mp hm with rfl | hm
        · rw [hs] at hi; cases hi
          rw [if_pos hc, rewrite_other _ _ _ _ hn2.1, SlotMem.read_write_same hw]; exact ⟨rfl, rfl⟩
        · have := rewrite_own ws _ none (SlotMem.wf_write (i := j) (x := Slot.of v.record mask) hw) hn2.2 w hm i hi
          have hij : i ≠ j := by rintro rfl; exact hn2.1 (mem_slotsOf.mpr ⟨w, hm, hi⟩)
          rw [SlotMem.read_write_other hij] at this
          exact this
      · rw [if_neg hc]
        rcases List.mem_cons.mp hm with rfl | hm
        · rw [hs] at hi; cases hi
          rw [if_neg hc, rewrite_other _ _ _ _ hn2.1]
        · exact rewrite_own ws m mask hw hn2.2 w hm i hi

/-- The records of a working copy that have a slot stand in it. -/
structure Stored (m : SlotMem) (ws : List WorkRec) : Prop where
  used : ∀ w ∈ ws, ∀ i, w.slot = some i → (SlotMem.read m i).used = true ∧ (SlotMem.read m i).record = w.record

/-- What placing the records of a working copy does (R39): one slot a record, in order and in use,
    each its own or a free one; slots in use before stay as they are. -/
structure Placed (m m' : SlotMem) (ws : List WorkRec) (l : List Nat) : Prop where
  len : l.length = ws.length
  keep : ∀ i, (SlotMem.read m i).used = true → SlotMem.read m' i = SlotMem.read m i
  recs : l.map (fun i => (SlotMem.read m' i).record) = ws.map WorkRec.record
  inuse : ∀ i ∈ l, (SlotMem.read m' i).used = true
  src : ∀ i ∈ l, i ∈ slotsOf ws ∨ (SlotMem.read m i).used = false
  nodup : (slotsOf ws).Nodup → l.Nodup
  wf : SlotMem.wf m' = true

/-- The slots of one segment. -/
theorem place_placed : ∀ (ws : List WorkRec) (m : SlotMem) (mask), SlotMem.wf m = true → Stored m ws →
    Placed m (place m mask ws).1 ws (place m mask ws).2.2
  | [], m, mask, h, _ => ⟨rfl, fun _ _ => rfl, rfl, by simp [place], by simp [place], fun _ => by simp [place], h⟩
  | w :: ws, m, mask, h, hg => by
    unfold place
    cases hs : w.slot with
    | some j =>
      dsimp only
      have ih := place_placed ws m mask h ⟨fun v hv => hg.used v (List.mem_cons_of_mem _ hv)⟩
      have hj := hg.used w (by simp) j hs
      have hso : slotsOf (w :: ws) = j :: slotsOf ws := by simp [slotsOf, hs]
      refine ⟨by simp [ih.len], ih.keep, ?_, ?_, ?_, ?_, ih.wf⟩
      · simp only [List.map_cons, ih.recs, ih.keep j hj.1, hj.2]
      · intro i hi
        rcases List.mem_cons.mp hi with rfl | hi
        · rw [ih.keep _ hj.1]; exact hj.1
        · exact ih.inuse i hi
      · intro i hi
        rw [hso]
        rcases List.mem_cons.mp hi with rfl | hi
        · left; simp
        · rcases ih.src i hi with a | a
          · left; simp [a]
          · right; exact a
      · intro hn
        rw [hso] at hn
        obtain ⟨a, b⟩ := List.nodup_cons.mp hn
        refine List.nodup_cons.mpr ⟨fun hc => ?_, ih.nodup b⟩
        rcases ih.src j hc with d | d
        · exact a d
        · rw [hj.1] at d; cases d
    | none =>
      dsimp only
      let f := SlotMem.lowestFree m
      have hf : (SlotMem.read m f).used = false := SlotMem.lowestFreeFrom_free m 0 h
      let m1 := SlotMem.write m f (Slot.of w.record mask)
      have hm1 : SlotMem.wf m1 = true := SlotMem.wf_write h
      have hne : ∀ i, (SlotMem.read m i).used = true → i ≠ f := by rintro i hi rfl; rw [hf] at hi; cases hi
      have hr : ∀ i, (SlotMem.read m i).used = true → SlotMem.read m1 i = SlotMem.read m i := fun i hi =>
          SlotMem.read_write_other (hne i hi)
      have hf1 : SlotMem.read m1 f = Slot.of w.record mask := SlotMem.read_write_same h
      have ih := place_placed ws m1 none hm1 ⟨fun v hv i hi => by
        have := hg.used v (List.mem_cons_of_mem _ hv) i hi
        rw [hr i this.1]; exact this⟩
      have hso : slotsOf (w :: ws) = slotsOf ws := by simp [slotsOf, hs]
      have hfu : (SlotMem.read m1 f).used = true := by rw [hf1]; rfl
      have hku := ih.keep f hfu
      refine ⟨by show (place m1 none ws).2.2.length + 1 = ws.length + 1; rw [ih.len], fun i hi => ?_, ?_, ?_, ?_, ?_,
          ih.wf⟩
      · rw [ih.keep i (by rw [hr i hi]; exact hi), hr i hi]
      · show (SlotMem.read (place m1 none ws).1 f).record :: (place m1 none ws).2.2.map (fun i =>
          (SlotMem.read (place m1 none ws).1 i).record) = w.record :: ws.map WorkRec.record
        rw [ih.recs, hku, hf1]; rfl
      · intro i hi
        rcases List.mem_cons.mp hi with rfl | hi
        · show (SlotMem.read (place m1 none ws).1 f).used = true; rw [hku]; exact hfu
        · exact ih.inuse i hi
      · intro i hi
        rw [hso]
        rcases List.mem_cons.mp hi with rfl | hi
        · right; exact hf
        · rcases ih.src i hi with a | a
          · left; exact a
          · right
            by_cases e : i = f
            · subst e; exact hf
            · have : SlotMem.read m1 i = SlotMem.read m i := SlotMem.read_write_other e
              rw [← this]; exact a
      · intro hn
        rw [hso] at hn
        refine List.nodup_cons.mpr ⟨fun hc => ?_, ih.nodup hn⟩
        rcases ih.src f hc with a | a
        · obtain ⟨v, hv, hvs⟩ := mem_slotsOf.mp a
          exact hne f (hg.used v (List.mem_cons_of_mem _ hv) f hvs).1 rfl
        · rw [hfu] at a; cases a

/-- Two placings, one after the other. -/
theorem Placed.append {m m1 m2 : SlotMem} {a b : List WorkRec} {la lb : List Nat} (h1 : Placed m m1 a la) (h2 : Placed m1
    m2 b lb) (hg : Stored m b) : Placed m m2 (a ++ b) (la ++ lb) where
  len := by simp [h1.len, h2.len]
  keep := fun i hi => by rw [h2.keep i (by rw [h1.keep i hi]; exact hi), h1.keep i hi]
  recs := by
    rw [List.map_append, List.map_append, h2.recs, ← h1.recs]
    congr 1
    apply List.map_congr_left
    intro i hi
    rw [h2.keep i (h1.inuse i hi)]
  inuse := fun i hi => by
    rcases List.mem_append.mp hi with hi | hi
    · rw [h2.keep i (h1.inuse i hi)]; exact h1.inuse i hi
    · exact h2.inuse i hi
  src := fun i hi => by
    rw [slotsOf_append]
    rcases List.mem_append.mp hi with hi | hi
    · rcases h1.src i hi with a | a
      · left; simp [a]
      · right; exact a
    · rcases h2.src i hi with a | a
      · left; simp [a]
      · right
        cases hu : (SlotMem.read m i).used
        · rfl
        · rw [h1.keep i hu, hu] at a; cases a
  nodup := fun hn => by
    rw [slotsOf_append] at hn
    have hn' := List.nodup_append.mp hn
    refine List.nodup_append.mpr ⟨h1.nodup hn'.1, h2.nodup hn'.2.1, ?_⟩
    rintro i hi j hj rfl
    have hu := h1.inuse i hi
    rcases h2.src i hj with a | a
    · -- i is a slot of b, used in m
      obtain ⟨v, hv, hvs⟩ := mem_slotsOf.mp a
      rcases h1.src i hi with c | c
      · exact hn'.2.2 i c i a rfl
      · rw [(hg.used v hv i hvs).1] at c; cases c
    · rw [hu] at a; cases a
  wf := h2.wf

/-- The slots of several segments. -/
theorem placeAll_placed : ∀ (segs : List (List WorkRec)) (m : SlotMem) (mask), SlotMem.wf m = true →
    Stored m segs.flatten →
   Placed m (placeAll m mask segs).1 segs.flatten (placeAll m mask segs).2.2.flatten ∧
       (placeAll m mask segs).2.2.map List.length = segs.map List.length
  | [], m, mask, h, _ => ⟨⟨rfl, fun _ _ => rfl, rfl, by simp [placeAll], by simp [placeAll], fun _ => by simp [placeAll],
      h⟩, rfl⟩
  | seg :: segs, m, mask, h, hg => by
    unfold placeAll
    dsimp only
    have h1 := place_placed seg m mask h ⟨fun v hv => hg.used v (by simp [hv])⟩
    have hg2 : Stored m segs.flatten := ⟨fun v hv => hg.used v (by
        simp only [List.flatten_cons, List.mem_append]
        exact Or.inr hv)⟩
    have hg3 : Stored (place m mask seg).1 segs.flatten := ⟨fun v hv i hi => by
      have := hg2.used v hv i hi
      rw [h1.keep i this.1]; exact this⟩
    have h2 := placeAll_placed segs (place m mask seg).1 (place m mask seg).2.1 h1.wf hg3
    refine ⟨?_, ?_⟩
    · simp only [List.flatten_cons]; exact h1.append h2.1 hg2
    · simp [h2.2, h1.len]

/-- Merges keep the records and their order (R36). -/
theorem mergeForward_flatten : ∀ (segs : List (List WorkRec)) (carry op : List WorkRec),
    (mergeForward carry segs op).1.flatten ++ (mergeForward carry segs op).2 = carry ++ segs.flatten ++ op
  | [], carry, op => by simp [mergeForward]
  | seg :: segs, carry, op => by
    unfold mergeForward
    split
    · have := mergeForward_flatten segs [] op
      simp only [List.nil_append] at this
      simp only [List.flatten_cons, List.append_assoc]; rw [this]; try simp
    · rw [mergeForward_flatten segs]; simp

theorem cut_flatten (n : Record) (segs : List (List WorkRec)) : (segs.map fun seg =>
    (seg.map (WorkRec.cut n)).flatten).flatten = (segs.flatten.map (WorkRec.cut n)).flatten := by
  induction segs with
  | nil => rfl
  | cons a l ih => simp [ih]

/-- The records after a piece is entered (R34–R37): each record cut, and the piece at the end. -/
theorem Work.enter_records (w : Work) (n : Record) : (w.enter n).records = (w.records.map (WorkRec.cut n)).flatten ++
    [{ slot := none, record := n, changed := true }] := by
  have := mergeForward_flatten (w.closed.map fun seg : List WorkRec =>
      (seg.map (WorkRec.cut n)).flatten) [] ((w.opened.map (WorkRec.cut n)).flatten)
  rw [cut_flatten] at this
  unfold Work.enter Work.records
  cases n.kind
  · simp only [← List.append_assoc]; rw [this]; simp
  · simp only [List.flatten_append, List.flatten_cons, List.flatten_nil, List.append_nil]
    rw [← List.append_assoc, this]; simp

/-- A working copy of a journal whose slots are `base`: distinct slots out of `base`,
    an unchanged record standing in its slot. -/
structure WorkOf (m : SlotMem) (base : List Nat) (ws : List WorkRec) : Prop where
  nodup : (slotsOf ws).Nodup
  sub : ∀ i ∈ slotsOf ws, i ∈ base
  same : ∀ w ∈ ws, ∀ i, w.slot = some i → w.changed = false → (SlotMem.read m i).record = w.record

/-- A cut keeps the slot with one part at most, and marks what it changes (R34, R35). -/
theorem WorkRec.cut_slots (n : Record) (w : WorkRec) : (slotsOf (w.cut n)).Sublist (slotsOf [w]) ∧ ∀ v ∈ w.cut n, v = w ∨
    v.changed = true := by
  unfold WorkRec.cut
  dsimp only
  split
  · split
    · split
      · exact ⟨by simp [slotsOf], by simp⟩
      · exact ⟨by cases h : w.slot <;> simp [slotsOf, h], by simp⟩
    · split
      · exact ⟨by cases h : w.slot <;> simp [slotsOf, h], by simp⟩
      · exact ⟨by cases h : w.slot <;> simp [slotsOf, h], by simp⟩
  · exact ⟨by simp, by simp⟩

theorem cut_all_slots (n : Record) : ∀ ws : List WorkRec, (slotsOf (ws.map (WorkRec.cut n)).flatten).Sublist (slotsOf ws)
    ∧ ∀ v ∈ (ws.map (WorkRec.cut n)).flatten, v ∈ ws ∨ v.changed = true
  | [] => by simp [slotsOf]
  | w :: ws => by
    obtain ⟨a, b⟩ := cut_all_slots n ws
    obtain ⟨c, d⟩ := WorkRec.cut_slots n w
    refine ⟨?_, ?_⟩
    · have e : slotsOf (w :: ws) = slotsOf [w] ++ slotsOf ws := slotsOf_append [w] ws
      rw [e]; simp only [List.map_cons, List.flatten_cons, slotsOf_append]
      exact c.append a
    · intro v hv
      simp only [List.map_cons, List.flatten_cons, List.mem_append] at hv
      rcases hv with hv | hv
      · rcases d v hv with rfl | h
        · left; simp
        · right; exact h
      · rcases b v hv with h | h
        · left; simp [h]
        · right; exact h

/-- A piece entered keeps the working copy one of the journal. -/
theorem WorkOf.enter {m base} {w : Work} (n : Record) (h : WorkOf m base w.records) : WorkOf m base (w.enter n).records
    := by
  rw [Work.enter_records]
  obtain ⟨a, b⟩ := cut_all_slots n w.records
  have e : slotsOf ((w.records.map (WorkRec.cut n)).flatten ++ [{ slot := none, record := n, changed := true }]) =
      slotsOf (w.records.map (WorkRec.cut n)).flatten := by rw [slotsOf_append]; simp [slotsOf]
  refine ⟨by rw [e]; exact a.nodup h.nodup, fun i hi => ?_, fun v hv i hi hc => ?_⟩
  · rw [e] at hi; exact h.sub i (a.subset hi)
  · rcases List.mem_append.mp hv with hv | hv
    · rcases b v hv with h' | h'
      · exact h.same v h' i hi hc
      · rw [h'] at hc; cases hc
    · simp at hv; subst hv; cases hi

/-- A capture reads slots of the journal alone (R41). -/
theorem WorkOf.enter_reads {m base} {w : Work} (n : Record) (h : WorkOf m base w.records) (hr : ∀ i ∈ w.reads,
    i ∈ base) : ∀ i ∈ (w.enter n).reads, i ∈ base := by
  have : (w.enter n).reads = w.reads ++ (w.records.map (WorkRec.cutReads n)).flatten :=
      by unfold Work.enter Work.records; cases n.kind <;> rfl
  rw [this]
  intro i hi
  rcases List.mem_append.mp hi with hi | hi
  · exact hr i hi
  · simp only [List.mem_flatten, List.mem_map] at hi
    obtain ⟨l, ⟨v, hv, rfl⟩, hi⟩ := hi
    unfold WorkRec.cutReads at hi
    split at hi
    · simp at hi
    · split at hi
      · simp at hi
      · rename_i j hj
        split at hi
        · simp at hi; subst hi; exact h.sub _ (mem_slotsOf.mpr ⟨v, hv, hj⟩)
        · simp at hi

/-- The same for every piece of a write. -/
theorem WorkOf.enterAll {m base} : ∀ (ns : List Record) (w : Work), WorkOf m base w.records → (∀ i ∈ w.reads, i ∈ base) →
    WorkOf m base (w.enterAll ns).records ∧ ∀ i ∈ (w.enterAll ns).reads, i ∈ base
  | [], _, h, hr => ⟨h, hr⟩
  | n :: ns, w, h, hr => WorkOf.enterAll ns (w.enter n) (WorkOf.enter n h) (WorkOf.enter_reads n h hr)

/-- The working copy before the capture (R38). -/
theorem WorkOf.start (j : CageRecord) (m : SlotMem) (hn : j.slots.Nodup) : WorkOf m j.slots (j.work m).records := by
  have hrec : (j.work m).records = j.slots.map (workRec m) := by
    unfold CageRecord.work Work.records CageRecord.slots CageRecord.segments
    simp [List.map_flatten]
  have hsl : slotsOf (j.work m).records = j.slots := by
    rw [hrec]; unfold slotsOf; rw [List.filterMap_map]
    have : (WorkRec.slot ∘ workRec m) = some := rfl
    rw [this]; simp
  refine ⟨by rw [hsl]; exact hn, fun i hi => by rw [hsl] at hi; exact hi, fun w hw i hi _ => ?_⟩
  rw [hrec] at hw
  obtain ⟨j', _, rfl⟩ := List.mem_map.mp hw
  cases hi; rfl

/-! ## The syndromes a commit writes (R195) -/

/-- Without a mask every rewritten slot is clean (R195). -/
theorem rewrite_none : ∀ (ws : List WorkRec) (m : SlotMem), SlotMem.wf m = true → (slotsOf ws).Nodup →
    (rewrite m none ws).2 = none ∧
    ∀ w ∈ ws, ∀ i, w.slot = some i → w.changed = true → (SlotMem.read (rewrite m none ws).1 i).syndrome = 0
  | [], _, _, _ => by simp [rewrite]
  | v :: ws, m, hw, hn => by
    unfold rewrite
    cases hs : v.slot with
    | none =>
      dsimp only
      have e : slotsOf (v :: ws) = slotsOf ws := by simp [slotsOf, hs]
      obtain ⟨a, b⟩ := rewrite_none ws m hw (by rw [← e]; exact hn)
      refine ⟨a, fun w hm i hi hc => ?_⟩
      rcases List.mem_cons.mp hm with rfl | hm
      · rw [hs] at hi; cases hi
      · exact b w hm i hi hc
    | some j =>
      dsimp only
      have e : slotsOf (v :: ws) = j :: slotsOf ws := by simp [slotsOf, hs]
      rw [e, List.nodup_cons] at hn
      split
      · obtain ⟨a, b⟩ := rewrite_none ws (SlotMem.write m j (Slot.of v.record none)) (SlotMem.wf_write hw) hn.2
        refine ⟨a, fun w hm i hi hc => ?_⟩
        rcases List.mem_cons.mp hm with rfl | hm
        · rw [hs] at hi; cases hi
          rw [rewrite_other _ _ _ _ hn.1, SlotMem.read_write_same hw]; rfl
        · exact b w hm i hi hc
      · rename_i hv
        obtain ⟨a, b⟩ := rewrite_none ws m hw hn.2
        refine ⟨a, fun w hm i hi hc => ?_⟩
        rcases List.mem_cons.mp hm with rfl | hm
        · exact absurd hc hv
        · exact b w hm i hi hc

/-- With nothing to rewrite the memory and the pending mask stay. -/
theorem rewrite_skip (m : SlotMem) (mask) : ∀ ws : List WorkRec, (∀ w ∈ ws, w.rewritten = false) →
    ∀ l, rewrite m mask (ws ++ l) = rewrite m mask l
  | [], _, _ => rfl
  | v :: ws, h, l => by
    have hv := h v (by simp)
    rw [List.cons_append, rewrite]
    cases hs : v.slot with
    | none => exact rewrite_skip m mask ws (fun w hw => h w (by simp [hw])) l
    | some j =>
      have hc : v.changed = false := by simpa [WorkRec.rewritten, hs] using hv
      dsimp only
      rw [if_neg (by simp [hc])]
      exact rewrite_skip m mask ws (fun w hw => h w (by simp [hw])) l

/-- Two lists are placed one after the other as their join is. -/
theorem place_append (b : List WorkRec) : ∀ (a : List WorkRec) (m : SlotMem) (mask : Option Byte),
    place m mask (a ++ b) = (let ra := place m mask a; let rb := place ra.1 ra.2.1 b; (rb.1, rb.2.1, ra.2.2 ++ rb.2.2))
  | [], _, _ => rfl
  | v :: a, m, mask => by
    rw [List.cons_append, place]
    cases hs : v.slot with
    | none => dsimp only; rw [place_append b a]; simp [place, hs]
    | some j => dsimp only; rw [place_append b a]; simp [place, hs]

/-- The segments are placed as their records in one list are. -/
theorem placeAll_flatten : ∀ (segs : List (List WorkRec)) (m : SlotMem) (mask), let r := placeAll m mask segs
    (r.1, r.2.1, r.2.2.flatten) = place m mask segs.flatten
  | [], _, _ => rfl
  | seg :: segs, m, mask => by
    have := placeAll_flatten segs (place m mask seg).1 (place m mask seg).2.1
    dsimp only at this ⊢
    rw [List.flatten_cons, place_append]
    dsimp only
    rw [← this]
    rfl

/-- Without a mask every slot a new record takes is clean (R195). -/
theorem place_none : ∀ (ws : List WorkRec) (m : SlotMem), SlotMem.wf m = true → Stored m ws →
    (place m none ws).2.1 = none ∧
    ∀ i ∈ (place m none ws).2.2, i ∈ slotsOf ws ∨ (SlotMem.read (place m none ws).1 i).syndrome = 0
  | [], _, _, _ => by simp [place]
  | v :: ws, m, hw, hg => by
    have hg' : Stored m ws := ⟨fun w h => hg.used w (by simp [h])⟩
    rw [place]
    cases hs : v.slot with
    | some j =>
      dsimp only
      have e : slotsOf (v :: ws) = j :: slotsOf ws := by simp [slotsOf, hs]
      obtain ⟨a, b⟩ := place_none ws m hw hg'
      refine ⟨a, fun i hi => ?_⟩
      rw [e]
      rcases List.mem_cons.mp hi with rfl | hi
      · exact .inl (by simp)
      · exact (b i hi).imp (fun h => by simp [h]) id
    | none =>
      dsimp only
      have e : slotsOf (v :: ws) = slotsOf ws := by simp [slotsOf, hs]
      have hf : (SlotMem.read m (SlotMem.lowestFree m)).used = false := SlotMem.lowestFreeFrom_free m 0 hw
      have hw1 : SlotMem.wf (SlotMem.write m (SlotMem.lowestFree m) (Slot.of v.record none)) = true := SlotMem.wf_write hw
      have hg1 : Stored (SlotMem.write m (SlotMem.lowestFree m) (Slot.of v.record none)) ws := ⟨fun w h i hi => by
        have hu := hg'.used w h i hi
        rw [SlotMem.read_write_other (fun e => by rw [e, hf] at hu; cases hu.1)]
        exact hu⟩
      obtain ⟨a, b⟩ := place_none ws _ hw1 hg1
      have P := place_placed ws _ none hw1 hg1
      refine ⟨a, fun i hi => ?_⟩
      rw [e]
      rcases List.mem_cons.mp hi with rfl | hi
      · right
        rw [P.keep _ (by rw [SlotMem.read_write_same hw]; rfl), SlotMem.read_write_same hw]; rfl
      · exact b i hi

/-- Records with a slot keep it, in their places. -/
theorem place_slot : ∀ (ws : List WorkRec) (m : SlotMem) (mask) (n : Nat) (x : WorkRec) (i : Nat), ws[n]? = some x →
    x.slot = some i → (place m mask ws).2.2[n]? = some i
  | [], _, _, _, _, _, h, _ => by simp at h
  | v :: ws, m, mask, 0, x, i, h, hi => by
    obtain rfl : v = x := by simpa using h
    rw [place, hi]; rfl
  | v :: ws, m, mask, n + 1, x, i, h, hi => by
    rw [place]
    cases v.slot <;> exact place_slot ws _ _ n x i (by simpa using h) hi

/-- With no new record the memory and the pending mask stay. -/
theorem place_skip (m : SlotMem) (mask) : ∀ ws : List WorkRec, (∀ w ∈ ws, w.slot ≠ none) →
    place m mask ws = (m, mask, slotsOf ws) ∧ (slotsOf ws).length = ws.length
  | [], _ => ⟨rfl, rfl⟩
  | v :: ws, h => by
    obtain ⟨a, b⟩ := place_skip m mask ws fun w hw => h w (by simp [hw])
    cases hs : v.slot with
    | none => exact absurd hs (h v (by simp))
    | some j =>
      have e : slotsOf (v :: ws) = j :: slotsOf ws := by simp [slotsOf, hs]
      rw [place, hs, a, e]
      exact ⟨rfl, by simp [b]⟩

/-- The first record of a list that meets a condition, with what stands before and after it. -/
theorem split_first {α : Type} (p : α → Prop) : ∀ ws : List α, (∃ x ∈ ws, p x) →
    ∃ pre x post, ws = pre ++ x :: post ∧ p x ∧ ∀ y ∈ pre, ¬p y
  | [], h => by simp at h
  | v :: ws, h => by
    by_cases hv : p v
    · exact ⟨[], v, ws, rfl, hv, by simp⟩
    · have : ∃ x ∈ ws, p x := by
        obtain ⟨x, hx, hp⟩ := h
        rcases List.mem_cons.mp hx with rfl | hx
        · exact absurd hp hv
        · exact ⟨x, hx, hp⟩
      obtain ⟨pre, x, post, e, hp, hn⟩ := split_first p ws this
      refine ⟨v :: pre, x, post, by rw [e]; rfl, hp, fun y hy => ?_⟩
      rcases List.mem_cons.mp hy with rfl | hy
      · exact hv
      · exact hn y hy

/-- The last piece leaves a new record (R33). -/
theorem Work.enterAll_new : ∀ (ns : List Record) (w : Work), ns ≠ [] → ∃ x ∈ (w.enterAll ns).records, x.slot = none
  | [n], w, _ => ⟨{ slot := none, record := n, changed := true }, by
      show _ ∈ (w.enter n).records; rw [Work.enter_records]; simp, rfl⟩
  | n :: n2 :: ns, w, _ => Work.enterAll_new (n2 :: ns) (w.enter n) (by simp)

end Sys2Proof.Machine
end

