-- ==== Sys2Proof/Laws/Directives.lean ====
section
/-! SUPPORT. How a directive arrives, and what the slot and BUS-STUCK do, once for each. -/

namespace Sys2Proof.Machine

/-- In service a directive command is its arrival (R175). -/
theorem State.directive_inService (s : State) (k code arg) (h : s.inService = true) : s.directive k code arg =
    s.arrive k { code := code, arg := arg } := by
  simp [State.directive, h]

/-- A cage directive other than INJECT acts or waits (R176, R178). -/
theorem State.arrive_cage (s : State) (k : CageId) (c : Code) (arg) (h : c ≠ .inject) (hp : c.partWide =
    false) : s.arrive k { code := c.byte, arg := arg } = s.actOrWait k c { code := c.byte, arg := arg } := by
  have : lookupCode c.byte = some c := by cases c <;> decide
  unfold State.arrive
  simp only [this, h, hp]; simp

/-- A part-wide directive acts (R177). -/
theorem State.arrive_partWide (s : State) (k : CageId) (c : Code) (arg) (h : c ≠ .inject) (hp : c.partWide =
    true) : s.arrive k { code := c.byte, arg := arg } = s.act k c { code := c.byte, arg := arg } := by
  have : lookupCode c.byte = some c := by cases c <;> decide
  unfold State.arrive
  simp only [this, h, hp]; simp

/-- Outside RESTORE and cursor returns a cage directive acts (R178). -/
theorem State.actOrWait_acts (s : State) (k : CageId) (c : Code) (d) (h : s.stateOf k ≠ .restore) (hr : (s.cage
    k).seq.ret = none) : s.actOrWait k c d = s.act k c d := by
  unfold State.actOrWait
  simp [h, hr]

/-- Everything the placing of a directive does (R178, R180). -/
theorem State.placeDirective_frame (s : State) (k : CageId) (d : Directive) :
  ((s.cage k).slot = none → cageBecomes k { s.cage k with slot := some d } s (s.placeDirective k d)) ∧
  (∀ old, (s.cage k).slot = some old → cageBecomes k { s.cage k with
          slot := some d
          seq := { (s.cage k).seq with counters :=
            { (s.cage k).seq.counters with directiveLosses := (s.cage k).seq.counters.directiveLosses + 1 } } }
          { s with notice := s.notice.submit (frameOf .directiveLost (cageByte k) old.code d.code 0 0 0) }
              (s.placeDirective k d)) := by
  unfold State.placeDirective
  refine ⟨fun h => ?_, fun old h => ?_⟩
  · simp only [h]; exact cageBecomes_modCage rfl
  · simp only [h]
    show cageBecomes _ _ _ ((((s.modCage k _).modCage k _)).submit _)
    rw [State.modCage_modCage]
    exact cageBecomes_modCage (k := k) (s := { s with notice := s.notice.submit (lostFrame k old d) }) (f := fun c => { c with
      slot := some d
      seq := { c.seq with counters := { c.seq.counters with directiveLosses := c.seq.counters.directiveLosses + 1 } } }) rfl

/-- Leaving the lists keeps all but the staged list, the unit, the cages it admits and the pending timing set. -/
theorem State.unlisted_cage (s : State) (k j : CageId) :
    (s.unlisted k).cage j = s.cage j ∨ (s.cage j).admitted ((s.unlisted k).cage j) := by
  unfold State.unlisted
  split
  · dsimp only
    split
    · exact (UnitKeeps.checkHead _).cage j
    · exact .inl rfl
  · exact (UnitKeeps.unitTests _).cage j
  · exact .inl rfl
  · exact .inl rfl

theorem State.unlisted_shared (s : State) (k : CageId) : let t := s.unlisted k
    t.channels = s.channels ∧ t.store = s.store ∧ t.log = s.log ∧ t.loader = s.loader ∧ t.notice = s.notice ∧
    t.lineReset = s.lineReset ∧ t.pending = s.pending := by
  have key : ∀ u : State, UnitKeeps s u → u.channels = s.channels ∧ u.store = s.store ∧ u.log = s.log ∧
      u.loader = s.loader ∧ u.notice = s.notice ∧ u.lineReset = s.lineReset ∧ u.pending = s.pending :=
    fun u h => ⟨h.channels, h.store, h.log, h.loader, h.notice, h.lineReset, h.pending⟩
  unfold State.unlisted
  split
  · dsimp only
    split
    · exact key _ ((UnitKeeps.modPower s fun p => { p with list := p.list.filter fun e => e.cage ≠ k }).trans
        (UnitKeeps.checkHead _))
    · exact ⟨rfl, rfl, rfl, rfl, rfl, rfl, rfl⟩
  · exact key _ ((UnitKeeps.modPower s fun p => { p with charges := p.charges.filter fun e => e.cage ≠ k }).trans
      (UnitKeeps.unitTests _))
  · exact ⟨rfl, rfl, rfl, rfl, rfl, rfl, rfl⟩
  · exact ⟨rfl, rfl, rfl, rfl, rfl, rfl, rfl⟩

theorem State.unlisted_slot (s : State) (k j : CageId) : ((s.unlisted k).cage j).slot = (s.cage j).slot := by
  rcases s.unlisted_cage k j with h | h <;> rw [h]

/-- Everything the move of BUS-STUCK does from a state other than EMPTY, SETTLE and RESTORE where no directive waits (R72). -/
theorem State.busStuckMove_eq (s : State) (k : CageId) (h1 : (s.cage k).seq.state ≠ .empty)
    (h2 : (s.cage k).seq.state ≠ .settle) (h3 : (s.cage k).seq.state ≠ .restore) (hsl : (s.cage k).slot = none) :
    s.busStuckMove k = (s.unlisted k).modCage k fun c => { c with
      seq := { c.seq with state := .faulted, adoptPending := false, decision := false, ppres := true, pint := c.mint,
                          attempt := none, due := .none, ret := none, started := false, carried := none }
      timer := { c.timer with use := .idle }
      gate := { (if c.gate.stuckForSeq then c.gate.endStuck else c.gate) with
        modc := { sheet := none, pointer := none } } } := by
  have hb : s.busStuckMove k = (((((s.leaveLists k).stopSeqWork k none).idleTimer k).enter k .faulted).modGate k fun g =>
      { g with modc := { sheet := none, pointer := none } }).takeSlot k := by
    unfold State.busStuckMove State.stateOf
    cases hst : (s.cage k).seq.state <;> simp_all
  rw [hb, State.leaveLists_eq]
  unfold State.stopSeqWork State.idleTimer State.enter State.modGate
  rw [State.modCage_modCage, State.modCage_modCage, State.modCage_modCage]
  unfold State.takeSlot
  rw [State.cage_modCage_same]
  dsimp only
  rw [State.unlisted_slot, hsl]
  dsimp only
  apply State.modCage_congr
  have hp : ∀ pol, ppresFor pol .faulted = true := by intro pol; cases pol <;> rfl
  simp only [Seq.enter, hp]
  rfl

end Sys2Proof.Machine
end

