-- ==== Sys2Proof/Laws/Gate.lean ====
section
/-! SUPPORT. What the shared operations of the gate do, once for each. -/

namespace Sys2Proof.Machine

/-- Whether a reset load is in progress is read from the loader alone. -/
theorem State.resetLoading_congr {s t : State} (h : t.loader = s.loader) : t.resetLoading = s.resetLoading :=
    by unfold State.resetLoading; rw [h]

/-- While no reset load is in progress the stall timer is left alone (R143). -/
theorem State.quietStall_inService (s : State) (k) (h : s.resetLoading = false) : s.quietStall k = s := by
  unfold State.quietStall; simp [h]

/-- A gate that takes a byte has its transaction in hand at the stage. -/
theorem State.takes_at {s : State} {k h st} (ht : s.takes k h st) : (s.cage k).gate.at? st = some h := by
  obtain ⟨-, -, -, h4, h5, h6⟩ := ht
  unfold Gate.at?; rw [h4]; simp [h5, h6]

/-- A command of the upper port where the gate takes it. -/
theorem State.upper_takes {s : State} {k h st} (ht : s.takes k h st) (hunt : UpAnswer) (f : Gate →
    State) (t : State) (hf : f (s.cage k).gate = t) (hl : t.loader = s.loader) : s.upper k hunt f = t := by
  unfold State.upper
  obtain ⟨h1, h2, h3, h4, h5, h6⟩ := ht
  simp only [h1, h3, Bool.false_eq_true, if_false, hf]
  exact State.quietStall_inService _ _ ((State.resetLoading_congr hl).trans h2)

/-- A change of one gate alone, as a frame. -/
theorem cageBecomes_modGate {k : CageId} {s : State} {f : Gate → Gate} {g : Gate} (h : f (s.cage k).gate =
    g) : cageBecomes k { s.cage k with gate := g } s (s.modGate k f) :=
  cageBecomes_modCage (by rw [← h])

/-- Everything the look at CDA after an end does (R157). -/
theorem State.resumeSeq_frame (u : State) (k : CageId) : cageBecomes k (u.cage k).resumed u (u.resumeSeq k) := by
  unfold State.resumeSeq
  apply cageBecomes_modCage
  have hh : ∀ c : Cage, (if c.gate.stallBusy = true then c else if (c.seq.attempt.isSome || c.seq.ret.isSome) = true then
      { c with seq := { c.seq with started := true } } else c) = c.resumed := by
    intro c; unfold Cage.resumed
    cases c.gate.stallBusy <;> cases (c.seq.attempt.isSome || c.seq.ret.isSome) <;> simp
  exact hh _

/-- The gate after the end of a transaction (R141, R151). -/
theorem Gate.ended_lets (g : Gate) (again : Bool) (r : RelayState) (p : PortState) (hr : g.relay = r) (hp : g.port =
    p) : g.ended .idle again = g.lets .idle (if again = true ∧ r = .relaying ∧ p = .busy then .repeated else .free) := by
  subst hr hp
  unfold Gate.ended Gate.lets
  cases again <;> simp

/-- A noted sheet select is applied before the gate lets go (R152). -/
theorem Gate.applySelect_lets (g : Gate) (h : InHand) (hi : g.inHand = some h) (r p) : g.applySelect.lets r p =
    (g.selects h).lets r p ∧ g.applySelect.relay = g.relay ∧ g.applySelect.port = g.port := by
  unfold Gate.applySelect; rw [hi]; dsimp only
  cases hs : h.sheetSelect <;> simp [Gate.lets, Gate.selects, hs]

/-- The fault of a stall (R154, R155). -/
theorem State.logStall_eq (s : State) (k : CageId) (h : InHand) : s.logStall k h =
    s.takeFault { kind := .upstreamStall, cage := some k, state := some (s.cage k).seq.shown, uptime := s.log.uptime,
                  detail1 := BitVec.ofNat 16 (h.addressByte.elim 255 BitVec.toNat), detail2 :=
                      BitVec.ofNat 16 (h.addressByte.elim 0 fun _ => h.upperBytes) } := by
  unfold State.logStall State.logFault State.faultEntry
  cases h.addressByte <;> rfl

/-- The end of a check made for the sequencer (R94, R157). -/
theorem Gate.endStuck_eq (g : Gate) (h : g.stretching = false) :
    g.endStuck = { g with
      clearing := false, stallElapsed := 0, stallUse := if g.inHand.isSome then .upstream else .stopped } := by
  unfold Gate.endStuck; rw [h]; rfl

/-- Everything the start after a check of CDA does (R157, R158). -/
theorem State.gateStart_frame (s : State) (k : CageId) : cageBecomes k (let c := s.cage k; if c.gate.stretching then
        { c with gate := { c.gate with clearing := false, stallUse := .stopped, stallElapsed := 0 } }
      else { c with
        gate := { c.gate with clearing := false, stallElapsed := 0,
                              stallUse := if c.gate.inHand.isSome then .upstream else .stopped }
        seq := { c.seq with started := true } }) s (s.gateStart k) := by
  unfold State.gateStart
  apply cageBecomes_modCage
  dsimp only
  by_cases h : (s.cage k).gate.stretching = true
  · rw [if_pos h, if_pos h]
  · rw [if_neg h, if_neg h, Gate.endStuck_eq _ (by simpa using h)]

/-- A channel that waits in DRAIN drains on where a discarded entry has left the queue (R165, R168). -/
theorem State.resumeDrain_waits (s : State) (k : CageId) (c : Fin 4) (x : ChannelCtx) (h : s.channelOf k = some (c, x))
    (hw : x.work = .awaitFill) : s.resumeDrain k = s.drain c x := by
  unfold State.resumeDrain; simp only [h, hw]

/-- Every other channel is left as it is (R173). -/
theorem State.resumeDrain_other (s : State) (k : CageId) (h : ∀ (c : Fin 4) (x : ChannelCtx), s.channelOf k = some (c, x) →
    x.work ≠ .awaitFill) : s.resumeDrain k = s := by
  unfold State.resumeDrain
  cases hc : s.channelOf k with
  | none => rfl
  | some p =>
    obtain ⟨c, x⟩ := p
    dsimp only
    split
    · exact absurd ‹_› (h c x hc)
    · rfl

end Sys2Proof.Machine
end

