-- ==== Sys2Proof/Laws/KeepsRestore.lean ====
section
/-! SUPPORT. What the operations of the Restore Engine and of the Pass-Through Gate keep. -/

namespace Sys2Proof.Machine

/-! ## The Restore Engine -/

/-- The channel that holds a cage has that cage in its context. -/
theorem State.channelOf_cage {s : State} {k : CageId} {c : Fin 4} {x : ChannelCtx} (h : s.channelOf k = some (c, x)) :
    x.cage = k := by
  unfold State.channelOf at h
  split at h
  · rename_i d hd
    split at h
    · rename_i y hy
      have hk := List.find?_some hd
      simp only [Option.some.injEq, Prod.mk.injEq] at h
      obtain ⟨rfl, rfl⟩ := h
      simpa only [Channel.holds, hy, decide_eq_true_eq] using hk
    · cases h
  · cases h

/-- The context the channel of a cage holds is the one it is found with. -/
theorem State.channelOf_ctx {s : State} {k : CageId} {c : Fin 4} {x : ChannelCtx} (h : s.channelOf k = some (c, x)) :
    s.channels[c.val].ctx = some x := by
  unfold State.channelOf at h
  split at h
  · rename_i d hd
    split at h
    · rename_i y hy
      simp only [Option.some.injEq, Prod.mk.injEq] at h
      obtain ⟨rfl, rfl⟩ := h
      exact hy
    · cases h
  · cases h

theorem Keeps.captureEntry {k : CageId} {s t : State} (h : Keeps k s t) {e : DeferEntry} :
    Keeps k s (t.captureEntry k e) := h.capture

theorem Keeps.captureEntries {k : CageId} {s t : State} (h : Keeps k s t) {es : List DeferEntry} :
    Keeps k s (t.captureEntries k es) := by
  induction es generalizing t with
  | nil => exact h
  | cons e es ih => exact ih h.captureEntry

theorem Keeps.dropQueue {k : CageId} {s t : State} (h : Keeps k s t) : Keeps k s (t.dropQueue k) := by
  unfold State.dropQueue
  dsimp only
  exact (h.quiet rfl).captureEntries

theorem Keeps.clearBuffers {k : CageId} {s t : State} (h : Keeps k s t) : Keeps k s (t.clearBuffers k) := h.modBuffers

theorem Keeps.forgetModule {k : CageId} {s t : State} (h : Keeps k s t) : Keeps k s (t.forgetModule k) := h.modGate

theorem Keeps.closeQueue {k : CageId} {s t : State} (h : Keeps k s t) : Keeps k s (t.closeQueue k) := h.modBuffers

theorem Keeps.finishFailure {k : CageId} {s t : State} (h : Keeps k s t) {c : Fin 4} :
    Keeps k s (t.finishFailure c k) := h.count.releaseChannel.clearBuffers.idleTimer.enter.takeSlot

theorem Keeps.startChanReturn {k : CageId} {s t : State} (h : Keeps k s t) {c : Fin 4} {x : ChannelCtx} :
    Keeps k s (t.startChanReturn c x) := h.setCtx.startDelay

theorem Keeps.failRestore {s t : State} {c : Fin 4} {x : ChannelCtx} (h : Keeps x.cage s t) :
    Keeps x.cage s (t.failRestore c x) := h.setCtx.dropQueue.closeQueue.startChanReturn

theorem Keeps.failStuck {s t : State} {c : Fin 4} {x : ChannelCtx} (h : Keeps x.cage s t) :
    Keeps x.cage s (t.failStuck c x) := h.setCtx.dropQueue.closeQueue.forgetModule.finishFailure

theorem Keeps.finishCompletion {s t : State} {c : Fin 4} {x : ChannelCtx} (h : Keeps x.cage s t) :
    Keeps x.cage s (t.finishCompletion c x) :=
  h.count.releaseChannel.clearBuffers.idleTimer.toLive.submit.takeSlot

theorem Keeps.finishForget {s t : State} {c : Fin 4} {x : ChannelCtx} (h : Keeps x.cage s t) :
    Keeps x.cage s (t.finishForget c x) := h.releaseChannel.clearBuffers.idleTimer.toLive.submit.takeSlot

theorem Keeps.finishRestore {s t : State} {c : Fin 4} {x : ChannelCtx} (h : Keeps x.cage s t) :
    Keeps x.cage s (t.finishRestore c x) := by
  unfold State.finishRestore
  split
  · exact h.finishCompletion
  · exact h.finishFailure
  · exact h.finishForget

theorem Keeps.compareReturn {s t : State} {c : Fin 4} {x : ChannelCtx} (h : Keeps x.cage s t) {goal : Cursor}
    {complete : Bool} : Keeps x.cage s (t.compareReturn c x goal complete) := by
  unfold State.compareReturn
  dsimp only
  split
  · exact h.setCtx
  · split
    · split
      · exact h.finishRestore
      · exact h.startChanReturn
    · exact h.modGate.finishRestore

theorem Keeps.drain {s t : State} {c : Fin 4} {x : ChannelCtx} (h : Keeps x.cage s t) :
    Keeps x.cage s (t.drain c x) := by
  unfold State.drain
  split
  · exact h.closeQueue.startChanReturn
  · split
    · exact h.setCtx
    · exact h.setCtx.startDelay

theorem Keeps.entryApplied {s t : State} {c : Fin 4} {x : ChannelCtx} (h : Keeps x.cage s t) {e : DeferEntry} :
    Keeps x.cage s (t.entryApplied c x e) := h.modBuffers.captureEntry.drain

theorem Keeps.forgetRestore {s t : State} {c : Fin 4} {x : ChannelCtx} (h : Keeps x.cage s t) :
    Keeps x.cage s (t.forgetRestore c x) :=
  Keeps.drain (x := { x with path := .forgotten }) h.emptyJournal

theorem Keeps.reseatRestore {s t : State} {c : Fin 4} {x : ChannelCtx} (h : Keeps x.cage s t) :
    Keeps x.cage s (t.reseatRestore c x) := h.dropQueue.clearBuffers.releaseChannel.idleTimer.toSettle

theorem Keeps.abandonRestore {k : CageId} {s t : State} {c : Fin 4} (h : Keeps k s t) :
    Keeps k s (t.abandonRestore c k) := h.dropQueue.clearBuffers.discardSlot.releaseChannel

theorem Keeps.boundaryDirective {s t : State} {c : Fin 4} {x : ChannelCtx} (h : Keeps x.cage s t) :
    Keeps x.cage s (t.boundaryDirective c x).1 := by
  unfold State.boundaryDirective
  split
  · exact h
  · dsimp only
    split
    · exact h.setSlot.reseatRestore
    · exact h.setSlot.forgetRestore
    · exact h.setSlot.act
    · exact h.setSlot

theorem Keeps.completionPoint {s t : State} {c : Fin 4} {x : ChannelCtx} (h : Keeps x.cage s t) :
    Keeps x.cage s (t.completionPoint c x) := by
  unfold State.completionPoint
  dsimp only
  split
  · exact h.boundaryDirective
  · exact h.boundaryDirective.drain

theorem Keeps.startWrite {s t : State} {c : Fin 4} {x : ChannelCtx} (h : Keeps x.cage s t) :
    Keeps x.cage s (t.startWrite c x) := by
  unfold State.startWrite
  split
  · exact h.setCtx
  · dsimp only
    split
    · exact h.readSlot.setCtx.startDelay
    · exact h.readSlot.failRestore

theorem Keeps.startSegment {s t : State} {c : Fin 4} {x : ChannelCtx} (h : Keeps x.cage s t) {i : Nat} :
    Keeps x.cage s (t.startSegment c x i) := by
  unfold State.startSegment
  split
  · rename_i n _
    exact Keeps.startWrite
      (x := { x with stage := .replay, segIndex := n, recIndex := 0, retriesUsed := 0, pass := .write }) h
  · exact h.completionPoint

theorem Keeps.boundary {s t : State} {c : Fin 4} {x : ChannelCtx} (h : Keeps x.cage s t) :
    Keeps x.cage s (t.boundary c x) := by
  unfold State.boundary
  dsimp only
  have h1 := Keeps.boundaryDirective (c := c) (x := { x with stage := .boundary, work := .idle })
    (h.setCtx (c := c) (x := { x with stage := .boundary, work := .idle }))
  split
  · exact h1
  · split
    · exact h1.modBuffers.setCtx.startDelay
    · exact Keeps.startSegment (x := { x with stage := .boundary, work := .idle }) h1

theorem Keeps.segmentVerified {s t : State} {c : Fin 4} {x : ChannelCtx} (h : Keeps x.cage s t) :
    Keeps x.cage s (t.segmentVerified c x) := by
  unfold State.segmentVerified
  dsimp only
  split
  · exact Keeps.boundary (x := { x with replayed := _, work := .idle }) h
  · exact Keeps.completionPoint (x := { x with replayed := _, work := .idle }) h.setCtx

theorem Keeps.startVerify {s t : State} {c : Fin 4} {x : ChannelCtx} (h : Keeps x.cage s t) {i : Nat} :
    Keeps x.cage s (t.startVerify c x i) := by
  unfold State.startVerify
  dsimp only
  split
  · exact Keeps.segmentVerified (x := { x with pass := .verify }) h
  · split
    · exact h.readSlot.setCtx.startDelay
    · exact Keeps.failRestore (x := { x with pass := .verify, recIndex := _ }) h.readSlot

theorem Keeps.endWritePass {s t : State} {c : Fin 4} {x : ChannelCtx} (h : Keeps x.cage s t) :
    Keeps x.cage s (t.endWritePass c x) := by
  unfold State.endWritePass
  dsimp only
  split
  · exact h.startVerify
  · exact h.setCtx.startDelay

theorem Keeps.recordWritten {s t : State} {c : Fin 4} {x : ChannelCtx} (h : Keeps x.cage s t) :
    Keeps x.cage s (t.recordWritten c x) := by
  unfold State.recordWritten
  split
  · exact Keeps.startWrite (x := { x with recIndex := x.recIndex + 1 }) h
  · exact h.endWritePass

theorem Keeps.segmentFailed {s t : State} {c : Fin 4} {x : ChannelCtx} (h : Keeps x.cage s t) {a b : Nat} :
    Keeps x.cage s (t.segmentFailed c x a b) := by
  unfold State.segmentFailed
  split
  · exact Keeps.startWrite (x := { x with retriesUsed := x.retriesUsed + 1, totalRetries := x.totalRetries + 1,
                                          recIndex := 0, pass := .write }) h
  · exact h.logFault.failRestore

theorem Keeps.chanHeld {k : CageId} {s t : State} (h : Keeps k s t) {c : Fin 4} {x : ChannelCtx} {p : Bool} :
    Keeps k s (t.chanHeld c x p) := h.setCtx.startDelay

theorem Keeps.chanBusy {k : CageId} {s t : State} (h : Keeps k s t) {c : Fin 4} {x : ChannelCtx} {f : Bool} :
    Keeps k s (t.chanBusy c x f) := by
  unfold State.chanBusy
  dsimp only
  split
  · exact h.startDelay.setCtx
  · exact h.setCtx

theorem Keeps.chanMore {k : CageId} {s t : State} (h : Keeps k s t) {c : Fin 4} {x : ChannelCtx} {p f : Bool} :
    Keeps k s (t.chanMore c x p f) := by
  unfold State.chanMore
  dsimp only
  split
  · exact h.setCtx.startDelay
  · exact h.setCtx

/-- A channel's transactions change the module cursor of its cage alone. -/
theorem Keeps.runChannel {s t u : State} {x : ChannelCtx} {rs : List Response} {r : AccessRun}
    (h : Keeps x.cage s t) (hr : t.runChannel x rs = some (u, r)) : Keeps x.cage s u := by
  unfold State.runChannel at hr
  split at hr
  · cases hr
  · simp only [Option.some.injEq, Prod.mk.injEq] at hr
    obtain ⟨rfl, _⟩ := hr
    exact h.modGate

theorem Keeps.chanLimit {s t : State} {c : Fin 4} {x : ChannelCtx} (h : Keeps x.cage s t) :
    Keeps x.cage s (t.chanLimit c x) := by
  unfold State.chanLimit
  split
  · exact h.compareReturn
  · split
    · exact h
    · dsimp only
      split
      · exact h.logFault.dropQueue.closeQueue.startChanReturn
      · exact h.logFault.failRestore

theorem Keeps.verifyCompared {s t : State} {c : Fin 4} {x : ChannelCtx} (h : Keeps x.cage s t) {r : Record}
    {bs : List Byte} : Keeps x.cage s (t.verifyCompared c x r bs) := by
  unfold State.verifyCompared
  split
  · exact h.startVerify
  · exact h.segmentFailed

theorem Keeps.resumeChannel {k : CageId} {s t : State} (h : Keeps k s t) : Keeps k s (t.resumeChannel k) := by
  unfold State.resumeChannel
  split
  · exact h
  · rename_i c x hx
    obtain rfl := State.channelOf_cage hx
    split
    · exact h.drain
    · exact h.compareReturn
    · exact h

theorem Keeps.resumeDrain {k : CageId} {s t : State} (h : Keeps k s t) : Keeps k s (t.resumeDrain k) := by
  unfold State.resumeDrain
  split
  · exact h
  · rename_i c x hx
    obtain rfl := State.channelOf_cage hx
    split
    · exact h.drain
    · exact h

/-! ## The Pass-Through Gate -/

theorem Keeps.readSlotDecide {k : CageId} {s t : State} (h : Keeps k s t) {i : InHand} :
    Keeps k s (t.readSlotDecide k i) := by
  unfold State.readSlotDecide
  dsimp only
  split
  · exact h.modBuffers.modGate.count
  · exact h.modBuffers.modGate

theorem Keeps.decideAddress {k : CageId} {s t : State} (h : Keeps k s t) {i : InHand} {a : BitVec 7} {r c : Bool} :
    Keeps k s (t.decideAddress k i a r c) := by
  unfold State.decideAddress
  dsimp only
  split
  · exact h.modGate
  · split
    · exact h.modGate
    · split
      · exact h.modGate
      · split
        · exact h.readSlotDecide
        · exact h.modGate

theorem Keeps.deferOffset {k : CageId} {s t : State} (h : Keeps k s t) {i : InHand} {o : Byte} :
    Keeps k s (t.deferOffset k i o) := by
  unfold State.deferOffset
  dsimp only
  split
  · exact h.modGate
  · split
    · exact h.modBuffers.modGate
    · exact h.modGate.count

theorem Keeps.decideOffset {k : CageId} {s t : State} (h : Keeps k s t) {i : InHand} {o : Byte} {c : Bool} :
    Keeps k s (t.decideOffset k i o c) := by
  unfold State.decideOffset
  dsimp only
  split
  · exact h.modGate
  · split
    · exact h.modGate
    · exact h.modGate
    · exact h.modGate
    · exact h.deferOffset
    · exact h.modGate

theorem Keeps.deferByte {k : CageId} {s t : State} (h : Keeps k s t) {i : InHand} {b : Byte} :
    Keeps k s (t.deferByte k i b) := by
  unfold State.deferByte
  dsimp only
  split
  · exact h.modGate.count
  · split
    · split
      · exact h.modGate
      · exact h.modBuffers.modGate
    · split
      · exact h.modBuffers.modGate.count.resumeDrain
      · exact h.modGate.count.resumeDrain

theorem Keeps.endDefer {k : CageId} {s t : State} (h : Keeps k s t) {i : InHand} : Keeps k s (t.endDefer k i) := by
  unfold State.endDefer
  split
  · exact h
  · dsimp only
    split
    · exact h.modGate.modBuffers
    · split
      · exact h.modGate
      · exact h.modGate.captureEntry
    · exact h.modGate

theorem Keeps.handOver {k : CageId} {s t : State} (h : Keeps k s t) {i : InHand} : Keeps k s (t.handOver k i) := by
  unfold State.handOver
  split
  · exact h.capture
  · exact h

theorem Keeps.endSlotRead {k : CageId} {s t : State} (h : Keeps k s t) {i : InHand} :
    Keeps k s (t.endSlotRead k i) := by
  unfold State.endSlotRead
  split
  · exact h.modBuffers
  · exact h

theorem Keeps.endTransaction {k : CageId} {s t : State} (h : Keeps k s t) {i : InHand} {r : Bool} :
    Keeps k s (t.endTransaction k i r) := by
  unfold State.endTransaction
  dsimp only
  split
  · exact h.modGate.handOver.modGate
  · exact h.modGate.modGate
  · split
    · exact h.modGate.arrive
    · exact h.modGate
  · exact h.endDefer.modGate.resumeChannel
  · exact h.endSlotRead.modGate.resumeChannel
  · split
    · exact h.modGate.modGate.resumeChannel
    · exact h.modGate.resumeChannel
  · exact h.modGate

theorem Keeps.logStall {k : CageId} {s t : State} (h : Keeps k s t) {i : InHand} : Keeps k s (t.logStall k i) :=
  h.logFault

theorem Keeps.stall {k : CageId} {s t : State} (h : Keeps k s t) {i : InHand} {r : Bool} :
    Keeps k s (t.stall k i r) := by
  unfold State.stall
  dsimp only
  split
  · exact h.modGate.handOver.logStall.modGate
  · exact h.modGate.logStall.modGate
  · exact h.endDefer.logStall.modGate.resumeChannel
  · exact h.endSlotRead.logStall.modGate.resumeChannel
  · split
    · exact h.modGate.logStall.modGate.resumeChannel
    · exact h.logStall.modGate.resumeChannel
  · exact h.logStall.modGate
  · exact h.logStall.modGate

theorem Keeps.gateStuck {k : CageId} {s t : State} (h : Keeps k s t) : Keeps k s (t.gateStuck k) :=
  h.logFault.modGate.busStuckMove

theorem Keeps.cclHeld {k : CageId} {s t : State} (h : Keeps k s t) {i : InHand} : Keeps k s (t.cclHeld k i) :=
  h.modGate.handOver.modGate.logFault.busStuckMove

/-! ## Operations of the commands -/

theorem Keeps.removeFrom {k : CageId} {s t : State} (h : Keeps k s t) {st : CageState} :
    Keeps k s (t.removeFrom k st) := by
  unfold State.removeFrom
  dsimp only
  have h1 : Keeps k s (if st = .settle then t.count k fun n => { n with bounces := n.bounces + 1 } else t) := by
    split
    · exact h.count
    · exact h
  split
  · exact h1.leaveLists.modGate.stopSeqWork.idleTimer.enter.submit.abandonRestore
  · exact h1.leaveLists.modGate.stopSeqWork.idleTimer.enter.submit.discardSlot

theorem Keeps.attemptMore {k : CageId} {s t : State} (h : Keeps k s t) {m : ModCursor} {a : Attempt} :
    Keeps k s (t.attemptMore k m a) := h.quiet rfl

theorem Keeps.seqHeld {k : CageId} {s t : State} (h : Keeps k s t) : Keeps k s (t.seqHeld k) := h.quiet rfl

theorem Keeps.attemptNotYet {k : CageId} {s t : State} (h : Keeps k s t) {m : ModCursor} {b : Bool} :
    Keeps k s (t.attemptNotYet k m b) := h.quiet rfl

theorem Keeps.accountCarried {k : CageId} {s t : State} (h : Keeps k s t) {x : Trans} {r : Response} :
    Keeps k s (t.accountCarried k x r) := h.quiet rfl

theorem Keeps.probed {k : CageId} {s t : State} (h : Keeps k s t) {m : ModCursor} {a : Attempt} {o : IdOutcome}
    {d : Bool} : Keeps k s (t.probed k m a o d) := h.quiet rfl

theorem Keeps.stopAttempt {k : CageId} {s t : State} (h : Keeps k s t) {r : Option Response} :
    Keeps k s (t.stopAttempt k r) := by
  unfold State.stopAttempt
  dsimp only
  split
  · exact (h.reach.modSeq rfl).stopSeqWork.accountCarried
  · exact (h.reach.modSeq rfl).stopSeqWork

theorem Keeps.returnUnmade {k : CageId} {s t : State} (h : Keeps k s t) {g : ReturnTarget} :
    Keeps k s (t.returnUnmade k g) := h.modGate.enterTarget

theorem Keeps.modReturn {k : CageId} {s t : State} (h : Keeps k s t) {f : SeqReturn → SeqReturn} :
    Keeps k s (t.modReturn k f) := h.modSeq rfl

theorem Keeps.seqReturnEnd {k : CageId} {s t : State} (h : Keeps k s t) {r : SeqReturn} {a : Response} :
    Keeps k s (t.seqReturnEnd k r a) := by
  unfold State.seqReturnEnd
  dsimp only
  split
  · exact h.modGate.quiet rfl
  · exact h.modGate.seqHeld
  · exact h.modGate.modReturn.modSeq rfl
  · exact h.modGate.returnUnmade
  · exact h.modGate.enterTarget

theorem Keeps.chanReturnEnd {s t : State} {c : Fin 4} {x : ChannelCtx} (h : Keeps x.cage s t) {g : Cursor}
    {a : Response} : Keeps x.cage s (t.chanReturnEnd c x g a) := by
  unfold State.chanReturnEnd
  split
  · exact h
  · rename_i u r hr
    have h1 := h.runChannel hr
    split
    · exact h1.chanMore
    · exact h1.chanHeld
    · exact h1.chanBusy
    · exact h1.compareReturn
    · exact h1.compareReturn


theorem Keeps.quietStall {k : CageId} {s t : State} (h : Keeps k s t) : Keeps k s (t.quietStall k) := by
  unfold State.quietStall
  split
  · exact h.modGate
  · exact h

theorem Keeps.upper {k : CageId} {s t : State} (h : Keeps k s t) {a : UpAnswer} {f : Gate → State}
    (hf : Keeps k s (f (t.cage k).gate)) : Keeps k s (t.upper k a f) := by
  unfold State.upper
  dsimp only
  split
  · exact h
  · split
    · exact h.modGate
    · exact hf.quietStall

theorem Keeps.endHunt {k : CageId} {s t : State} (h : Keeps k s t) : Keeps k s (t.endHunt k) := h.modGate.resumeSeq

theorem Keeps.chanStart {k : CageId} {s t : State} (h : Keeps k s t) {c : Fin 4} {x : ChannelCtx} :
    Keeps k s (t.chanStart c x) := h.setCtx.startDelay

theorem Keeps.gateStart {k : CageId} {s t : State} (h : Keeps k s t) : Keeps k s (t.gateStart k) := by
  refine h.quiet ?_
  split <;> rfl

theorem Keeps.chanStuck {s t : State} {c : Fin 4} {x : ChannelCtx} (h : Keeps x.cage s t) :
    Keeps x.cage s (t.chanStuck c x) := h.logFault.failStuck

theorem Keeps.directive {k : CageId} {s t : State} (h : Keeps k s t) {b : Byte} {a : Option Byte} :
    Keeps k s (t.directive k b a) := by
  unfold State.directive
  split
  · exact h.arrive
  · exact h

theorem Keeps.grant {k : CageId} {s t : State} (h : Keeps k s t) {c : Fin 4} : Keeps k s (t.grant c k) :=
  Keeps.startSegment (x := ChannelCtx.granted k)
    (h.adoptChannel.setCtx (c := c) (x := ChannelCtx.granted k)).modJournal.idleTimer.enter

end Sys2Proof.Machine
end

