-- ==== Sys2Proof/WellFormed.lean ====
section
/-! DEFINITION. What a command's operands must satisfy for the event to be one the manual knows. -/

namespace Sys2Proof

/-- The codes of the directive table (R176): 0x01 to 0x0B. -/
def knownDirectiveCode (code : Byte) : Bool := 1 ≤ code.toNat && code.toNat ≤ 11

/-- The largest read the part makes itself is 24 bytes (R14) and its largest write 16 (R163), so an answer holds no more
bytes than that and a refused byte is one of at most 16. -/
def Response.wellFormed : Response → Bool
  | .held => true
  | .busy => true
  | .refused n => n < 16
  | .taken bs => bs.length ≤ 24

/-- The checks of one command: answers within the sizes of R14 and R5, a flash image no larger than the body length
allows (R200: 5 + 202 + 2 bytes), a measured time no longer than the stall timer shows (log entry 3), and a code outside
the table where the row says so (R176). -/
def Instr.wellFormed : Instr → Bool
  | .powerOn => true
  | .lineResetAssert => true
  | .lineResetRelease => true
  | .resetProfileLoadEnd flash => flash.length ≤ 209
  | .reloadLoadEnd flash => flash.length ≤ 209
  | .pendingBudgetAdopt => true
  | .presenceAsserted _ => true
  | .removal _ => true
  | .mintChange _ _ => true
  | .settleCompareB _ => true
  | .phaseCompareA _ => true
  | .attemptDue _ => true
  | .probeAttemptNotYet _ rs => rs.all Response.wellFormed
  | .probeStepComplete _ rs => rs.all Response.wellFormed
  | .admission => true
  | .probeHMatch _ rs => rs.all Response.wellFormed
  | .bootTimeout _ r => r.all Response.wellFormed
  | .powerTimeout _ r => r.all Response.wellFormed
  | .adoptStepComplete _ rs => rs.all Response.wellFormed
  | .adoptCompareB _ r => r.all Response.wellFormed
  | .cursorReturnTransactionEnd _ r => r.wellFormed
  | .busyRetryDue _ => true
  | .writeBusyLimit _ => true
  | .channelGrant => true
  | .recordWriteEnd _ r => r.wellFormed
  | .postDelayEnd _ => true
  | .verifyReadEnd _ rs => rs.all Response.wellFormed
  | .delayedReadFetchEnd _ rs => rs.all Response.wellFormed
  | .deferredWriteApplied _ rs => rs.all Response.wellFormed
  | .discardTimerExpiry _ => true
  | .upperStart _ => true
  | .addressByte _ _ _ _ => true
  | .offsetByte _ _ _ => true
  | .downstreamAddressAnswer _ _ => true
  | .writeDataByte _ _ _ => true
  | .deferDataByte _ _ => true
  | .readDataByte _ _ _ => true
  | .slotReadByte _ _ => true
  | .upperStop _ => true
  | .upperRepeatedStart _ => true
  | .unknownDirectiveCode _ code _ => !knownDirectiveCode code
  | .upstreamStall _ _ waited => waited ≤ 255
  | .busFreeInterval _ free => free ≤ 255
  | .cdaReleased _ => true
  | .stuckDetectionExpiry _ => true
  | .busClearEnd _ _ => true
  | .cclHoldExpiry _ held _ => held ≤ 255
  | .reseat _ _ => true
  | .resume _ _ => true
  | .forget _ _ => true
  | .restoreNow _ _ => true
  | .freeze _ _ => true
  | .thaw _ _ => true
  | .report _ _ => true
  | .inject _ _ => true
  | .log _ _ => true
  | .clearLog _ _ => true
  | .reload _ _ => true
  | .noticeFrameSent => true

end Sys2Proof
end

