-- ==== Sys2Proof/Tests/Slice0.lean ====
section
/-! SUPPORT. Tests of one step each, with results taken from the manual's rules and worked examples, and for every statement
with hypotheses a state that meets them. -/

namespace Sys2Proof.Machine.Tests

-- One theorem at a time: each asks the kernel, and many at once would take a thread each.
set_option Elab.async false

/-! ## Small states -/

/-- The part in service under the default profile, with no module present. -/
def calm : State := { State.reset with loader := { State.reset.loader with load := none, everLoaded := true } }

/-- The part in service with cage 3 changed. -/
def cageIn (f : Cage → Cage) : State := calm.modCage 3 f

/-- A cage with a module in a cage state. -/
def inState (st : CageState) (c : Cage) : Cage := { c with mpres := true, seq := { c.seq with state := st } }

/-- The state after a command that answers one. -/
def after (r : Result) : State :=
  match r with
  | .next s => s
  | _ => calm

/-- Cage 3 after a command. -/
def then3 (i : Instr) (s : State) : Cage := (after (exec i s)).cage 3

/-- A transaction in hand at a stage, with a treatment and an offset. -/
def hand (t : Treatment) (st : Stage) (offset : Option Byte) : InHand :=
  { addressByte := some 0xA0, toModule := true, treatment := t, stage := st, refSheet := 16, offset := offset, data := [],
    sheetSelect := none, upperBytes := 0, nacked := false, place := .closed, served := false }

/-- A read of the module address in hand. -/
def readHand (t : Treatment) : InHand := { hand t .data none with addressByte := some 0xA1 }

/-- Cage 3 in a state with a transaction in hand, its relay state given. -/
def handIn (st : CageState) (relay : RelayState) (h : InHand) : State :=
  cageIn fun c => { inState st c with gate := { c.gate with relay := relay, inHand := some h, stallUse := .upstream } }

/-- A context of channel 2 with cage 3 and this work in hand. -/
def ctxOf (w : ChanWork) : ChannelCtx :=
  { cage := 3, stage := .replay, segIndex := 0, recIndex := 0, pass := .write, retriesUsed := 0, totalRetries := 0,
    replayed := 0, work := w, path := .completion, retry := .inHand, pointed := false, stuck := .none }

/-- Cage 3 in RESTORE on channel 2, with this context and the cage changed. -/
def restoreIn (x : ChannelCtx) (f : Cage → Cage) : State :=
  (cageIn fun c => f (inState .restore c)).modChannel 2 fun h => { h with ctx := some x, delayRunning := true }

/-- The capture table of the worked capture sequence (2.13). -/
def table : List Rule :=
  [{ area := .sheets 16 17, lo := 128, hi := 191, action := .record, verify := true, postDelay := 0 },
   { area := .sheets 16 16, lo := 192, hi := 192, action := .marker, verify := false, postDelay := 5 },
   { area := .base, lo := 122, hi := 123, action := .intercept, verify := false, postDelay := 0 }]

/-- A record of sheet 16 from a start position. -/
def rec16 (start : Nat) (data : List Byte) (rule : Nat) (kind : Kind) : Record :=
  { area := .sheet 16, start := start, data := data, rule := rule, kind := kind }

/-- A profile with the table of 2.13. -/
def withTable (s : State) : State :=
  { s with loader := { s.loader with profile := { s.loader.profile with rules := table } } }

/-- The records put into the slots from 0 on, with syndrome 0. -/
def stored (s : State) (rs : List Record) : State :=
  { s with store := { s.store with slots := rs.zipIdx.map fun p => (p.2, Slot.of p.1 none) } }

/-- A LIVE cage 3 whose open segment holds the records, with this quota, under the table of 2.13. -/
def holding (quota : Nat) (rs : List Record) : State :=
  stored (withTable (cageIn fun c => { inState .live c with
    journal := { c.journal with opened := List.range rs.length, quota := quota } })) rs

/-! ## WellFormed smoke: ill-formed commands are refused -/

theorem test_illFormed_refused_beyond_16 : (Instr.recordWriteEnd 0 (.refused 16)).wellFormed = false := by decide
theorem test_illFormed_answer_beyond_24 :
    (Instr.verifyReadEnd 0 [.taken (List.replicate 25 0)]).wellFormed = false := by decide
theorem test_illFormed_attempt_answer : (Instr.probeStepComplete 0 [.taken [], .refused 16]).wellFormed = false := by decide
theorem test_illFormed_carried : (Instr.bootTimeout 0 (some (.refused 16))).wellFormed = false := by decide
theorem test_illFormed_flash :
    (Instr.resetProfileLoadEnd (List.replicate 210 0)).wellFormed = false := by decide +kernel
theorem test_illFormed_reload : (Instr.reloadLoadEnd (List.replicate 210 0)).wellFormed = false := by decide +kernel
theorem test_illFormed_waited : (Instr.upstreamStall 0 false 256).wellFormed = false := by decide
theorem test_illFormed_free : (Instr.busFreeInterval 0 256).wellFormed = false := by decide
theorem test_illFormed_held : (Instr.cclHoldExpiry 0 256).wellFormed = false := by decide
theorem test_illFormed_known_code : (Instr.unknownDirectiveCode 0 0x0B none).wellFormed = false := by decide
theorem test_wellFormed_unknown_code : (Instr.unknownDirectiveCode 0 0x0C none).wellFormed = true := by decide
/-- No row of the table gives bits, so no word spells a command. -/
theorem test_decode_none : decodeTableWord 32 0xFFFFFFFF = none := by decide

/-! ## Transactions and cursors (1.2, 1.4) -/

/-- 1.2, second write: [250, 10 bytes] on sheet v targets 250–255, then 128–131. -/
theorem test_targets_wrap_into_window :
    (targets 9 250 (List.replicate 10 0)).map Target.position = [250, 251, 252, 253, 254, 255, 128, 129, 130, 131] := by
  decide
/-- 1.2, first write: [120, 12 bytes] with v at position 125 leaves (v, 132). -/
theorem test_write_selects_sheet :
    ({ sheet := some 3, pointer := some 40 } : ModCursor).wrote 120 [1, 2, 3, 4, 5, 77, 7, 8, 9, 10, 11, 12] =
      { sheet := some 77, pointer := some 132 } := by decide
/-- 1.2, third write: [124, 4 bytes] NACKed at its third byte leaves (w, 126). -/
theorem test_refused_write_selects_sheet :
    ({ sheet := some 77, pointer := some 132 } : ModCursor).account (.write 124 [1, 0x55, 3, 4]) (.refused 2) =
      { sheet := some 0x55, pointer := some 126 } := by decide
/-- 1.4: the cursor return from (16, 192) toward (17, 3) sends [125, 17], then [3]. -/
theorem test_return_selects_then_points :
    (Access.ret { sheet := 17, pointer := 3 }).next { sheet := some 16, pointer := some 192 } false = .select 17 ∧
    (Access.ret { sheet := 17, pointer := 3 }).run { sheet := some 16, pointer := some 192 } false false
        [.taken [], .taken []] =
      { modc := { sheet := some 17, pointer := some 3 }, ended := .done [], rest := [], progress := true } := by decide

/-! ## Capture (2.13, 2.14) -/

/-- 2.13 step f: [186, 10 bytes] gives C 186–191 and the marker D 192. -/
theorem test_resolve_step_f :
    resolve table 16 186 [1, 2, 3, 4, 5, 6, 7, 8, 9, 10] =
      [rec16 186 [1, 2, 3, 4, 5, 6] 0 .plain, rec16 192 [7] 1 .marker] := by decide
/-- 2.13 step g: of [120, 12 bytes] only 128–131 are journaled, on the old sheet. -/
theorem test_resolve_step_g :
    resolve table 16 120 [1, 2, 3, 4, 5, 17, 7, 8, 9, 10, 11, 12] = [rec16 128 [9, 10, 11, 12] 0 .plain] := by decide
/-- 2.13 step d: [133, 2 bytes] splits A 130–137; A′ keeps the slot, A″ follows it, B is appended. -/
theorem test_capture_splits :
    let s := (holding 64 [rec16 130 [0, 1, 2, 3, 4, 5, 6, 7] 0 .plain]).capture 3 16 133 [8, 9]
    (s.cage 3).journal.opened = [0, 1, 2] ∧
    (s.cage 3).journal.opened.map s.recordIn =
      [rec16 130 [0, 1, 2] 0 .plain, rec16 135 [5, 6, 7] 0 .plain, rec16 133 [8, 9] 0 .plain] := by decide +kernel
/-- 2.13 step c: the marker closes the open segment and an empty one follows. -/
theorem test_capture_marker_closes :
    let s := (holding 64 [rec16 130 [0] 0 .plain]).capture 3 16 192 [1]
    (s.cage 3).journal.closed = [[0, 1]] ∧ (s.cage 3).journal.opened = [] := by decide +kernel
/-- 2.14: with quota 4, a split and a new record would make 5; the journal is SPILLED as it was. -/
theorem test_capture_spills :
    let s0 := holding 4 [rec16 130 [0, 1, 2, 3, 4, 5, 6, 7] 0 .plain, rec16 192 [1] 0 .plain, rec16 150 [2] 0 .plain]
    let s := s0.capture 3 16 132 [8, 9]
    (s.cage 3).journal.state = .spilled ∧ s.store = s0.store ∧ s.notice.queue.length = 2 := by decide +kernel
/-- 10.4 steps 3 and 7: a syndrome of one bit is CORRECTED, of two bits UNCORRECTABLE. -/
theorem test_classes : classify 0x01 = .corrected ∧ classify 0x03 = .uncorrectable ∧ classify 0 = .clean := by decide
/-- 10.4 step 2: the pending mask 0x01 goes to the record written, and is then absent. -/
theorem test_mask_goes_to_first_record :
    let s := ((holding 64 []).modJournal 3 fun j => { j with mask := some 0x01 }).capture 3 16 140 [1, 2, 3, 4]
    (SlotMem.read s.store.slots 0).syndrome = 0x01 ∧ (s.cage 3).journal.mask = none := by decide +kernel
/-- 10.4 step 7: coalescing over an uncorrectable record abandons the capture; the journal is DAMAGED, with one fault. -/
theorem test_uncorrectable_damages :
    let s0 := holding 64 [rec16 160 [1, 2, 3] 0 .plain]
    let s1 := s0.modSlots fun m => SlotMem.write m 0 { SlotMem.read m 0 with syndrome := 0x03 }
    let s := s1.capture 3 16 162 [9]
    (s.cage 3).journal.state = .damaged ∧ s.store = s1.store ∧
      s.log.first.map FaultEntry.kind = some .uncorrectable := by decide +kernel

/-! ## Resets and loads -/

theorem test_reset_loads : State.reset.loader.load = some .powerOn ∧ State.reset.inService = false := by decide +kernel
/-- R50: power-on asserts MRST_n and MLPW, and keeps the level of MPRES_n. -/
theorem test_powerOn :
    let c := then3 .powerOn (cageIn (inState .live))
    c.mpres = true ∧ c.seq.state = .empty ∧ c.seq.mrst = true ∧ c.seq.mlpw = true := by decide +kernel
/-- R77: the lines of a LIVE cage are held at the assertion, and PINT_n is deasserted. -/
theorem test_lineAssert_holds_lines :
    let c := then3 .lineResetAssert (cageIn fun c =>
      { inState .live c with seq := { c.seq with state := .live, mrst := false, mlpw := false, pint := true } })
    c.seq.mrst = false ∧ c.seq.mlpw = false ∧ c.seq.pint = false := by decide +kernel
/-- 3.15, cages 3 and 9: at the release a cage with a module is ADOPT-pending, one that stood in EMPTY is not. -/
theorem test_lineRelease_adopts :
    (then3 .lineResetRelease { cageIn (inState .live) with lineReset := true }).seq.adoptPending = true ∧
    (then3 .lineResetRelease { cageIn (inState .empty) with lineReset := true }).seq.adoptPending = false := by decide +kernel
/-- R202: an unanswering flash is ABSENT and installs the default profile; R78: the waiting module meets SETTLE. -/
theorem test_load_absent :
    let s := after (exec (.resetProfileLoadEnd []) (State.reset.modCage 3 (inState .empty)))
    s.loader.outcome = .absent ∧ s.profile = Profile.default ∧ (s.cage 3).seq.state = .settle := by decide +kernel
/-- The first bytes of the tests' image: the header with a body length of 170, and 170 zero bytes. -/
def imageBody : List Byte := [0xC3, 0x3C, 1, 0, 170] ++ List.replicate 170 0
/-- The image of the tests: those bytes, and the check word over them, high byte first. -/
def image : List Byte :=
  imageBody ++ [BitVec.ofNat 8 ((crc16 imageBody).toNat / 256), BitVec.ofNat 8 (crc16 imageBody).toNat]
/-- The check value of this code over "123456789", as its catalogues give it. -/
theorem test_crc : crc16 [0x31, 0x32, 0x33, 0x34, 0x35, 0x36, 0x37, 0x38, 0x39] = 0x29B1 := by decide +kernel
theorem test_image_checkWord (a b : Byte) : checkWord (imageBody ++ [a, b]) = BitVec.ofNat 16 (a.toNat * 256 + b.toNat) := by
  have h0 : bodyLength (imageBody ++ [a, b]) = 170 := by
    unfold imageBody
    generalize List.replicate 170 (0 : Byte) = z
    simp [bodyLength, wordAt, byteAt]
  have h1 : imageBody.length = 175 := by decide +kernel
  simp only [checkWord, wordAt, h0, byteAt]
  rw [List.getD_append_right _ _ _ _ (by omega), List.getD_append_right _ _ _ _ (by omega), h1]
  rfl
/-- R201: an image whose check word agrees is GOOD. -/
theorem test_image_good : finding image = .good := by
  have h3 : bodyLength image = 170 := by decide +kernel
  have h1 : checkedBytes image = imageBody := by decide +kernel
  have h4 : byteAt image 0 = 0xC3 ∧ byteAt image 1 = 0x3C ∧ byteAt image 2 = 1 := by decide +kernel
  have h5 : checkWord image = crc16 imageBody := by
    unfold image
    rw [test_image_checkWord]
    generalize crc16 imageBody = c
    apply BitVec.eq_of_toNat_eq
    have := c.isLt
    simp only [BitVec.toNat_ofNat]
    omega
  unfold finding
  rw [h1, h3, h5, h4.1, h4.2.1, h4.2.2, if_neg (by decide), if_neg (by decide), if_neg (by decide), if_pos rfl]
/-- R201: a body length out of range is BAD with cause 2, and a wrong magic byte ABSENT. -/
theorem test_image_bad : finding (image.set 4 169) = .bad 2 ∧ finding (image.set 0 0) = .absent := by decide +kernel
/-- R203: a RELOAD that is not GOOD leaves the profile, the budget and the pending budget. -/
theorem test_reload :
    let s0 := { calm with loader := { calm.loader with load := some .reload } }
    let s := after (exec (.reloadLoadEnd []) s0)
    s.power = s0.power ∧ s.profile = s0.profile ∧ s.loader.load = none ∧ s.notice.queue.length = 1 := by decide +kernel
/-- 5.10: 916 committed and two charges keep the pending 600 waiting; after cage 3's release 458 fits. -/
theorem test_pendingBudget :
    (after (exec .pendingBudgetAdopt { calm with power := { calm.power with
      budget := 1200, pendingBudget := some 600, charges := [⟨3, 458⟩, ⟨9, 458⟩] } })).power.budget = 1200 ∧
    (after (exec .pendingBudgetAdopt { calm with power := { calm.power with
      budget := 1200, pendingBudget := some 600, charges := [⟨9, 458⟩] } })).power.budget = 600 := by decide +kernel

/-! ## The sequencer (3.14, 3.15) -/

theorem test_presence : (then3 (.presenceAsserted 3) calm).seq.state = .settle := by decide +kernel
/-- 3.14, second line: MPRES_n released in SETTLE gives EMPTY, a bounce and REMOVED (SETTLE). -/
theorem test_removal_bounces :
    let s := after (exec (.removal 3) (cageIn (inState .settle)))
    (s.cage 3).seq.state = .empty ∧ (s.cage 3).seq.counters.bounces = 1 ∧
      s.notice.queue.map Frame.bytes = [[0xA5, 0x02, 3, 1, 0, 0, 0, 0]] := by decide +kernel
/-- R53: PINT_n follows MINT_n in LIVE and stays deasserted in QUEUED. -/
theorem test_mint :
    (then3 (.mintChange 3 true) (cageIn (inState .live))).seq.pint = true ∧
    (then3 (.mintChange 3 true) (cageIn (inState .queued))).seq.pint = false := by decide +kernel
/-- A cage in a state whose phase runs, with its first attempt due. -/
def inPhase (st : CageState) (p : Phase) (c : Cage) : Cage :=
  { inState st c with
    seq := { c.seq with state := st, due := .compareA }
    timer := PhaseTimer.ofPhase TimingSet.default p }
/-- 3.14, fourth line: compare B at 300 gives PROBE, MRST_n released, reseats 1, both cursors (0, 0). -/
theorem test_settle_ends :
    let c := then3 (.settleCompareB 3) (cageIn (inPhase .settle .settle))
    c.seq.state = .probe ∧ c.seq.mrst = false ∧ c.seq.mlpw = true ∧ c.seq.counters.reseats = 1 ∧
      c.gate.ctrl = { sheet := 0, pointer := 0 } := by decide +kernel
/-- 3.14: the boot phase's first poll is made at 20. -/
theorem test_compareA : (then3 (.phaseCompareA 3) (cageIn (inPhase .probe .boot))).timer.elapsed = 20 := by decide +kernel
/-- 3.14: the next poll is due 10 ms after one that ended "not yet" at 20. -/
theorem test_attempt_paced :
    let s := after (exec (.phaseCompareA 3) (cageIn (inPhase .probe .boot)))
    (then3 (.probeAttemptNotYet 3 [.busy]) s).seq.due = .at 30 := by decide +kernel
theorem test_attemptDue :
    let s := cageIn fun c => { inPhase .probe .boot c with seq := { (inPhase .probe .boot c).seq with due := .at 30 } }
    (then3 (.attemptDue 3) s).timer.elapsed = 30 := by decide +kernel
/-- No time captured. -/
def noCaptures : Captures := { bootTime := 0, powerTime := 0, bootCaptured := false }
/-- An attempt in hand with no read left but the ones given. -/
def attemptOf (todo : List AttemptRead) (c : Cage) : Cage :=
  { c with seq := { c.seq with
      due := .none, started := true
      attempt := some { began := 460, todo := todo, identity := [], classByte := 0, matched := false, pointed := false,
                        kept := noCaptures } } }
/-- The answers of the default profile's probe step: pointer and read of probe L, of the identity field, of the class. -/
def goodAnswers : List Response := [.taken [], .taken [0], .taken [], .taken [0x42], .taken [], .taken [0]]
/-- A probe step about to complete. -/
def probing (f : Cage → Cage) : State :=
  cageIn fun c => f (attemptOf (attemptReads Profile.default .probe) (inPhase .probe .boot c))
/-- R62, no identity record: QUEUED with decision NO, and, alone on the list, admitted at once (R101); 3.14: the boot time is
the matching poll's 460. -/
theorem test_probe_step :
    let c := then3 (.probeStepComplete 3 goodAnswers) (probing id)
    c.seq.state = .powerup ∧ c.seq.mlpw = false ∧ c.seq.decision = false ∧ c.seq.bootTime = 460 ∧
      c.seq.lastIdentity = some [0x42] := by
  decide +kernel
/-- R62: a FOREIGN module leads to HELD by a cursor return, in which the cage is still in PROBE. -/
theorem test_probe_step_foreign :
    let c := then3 (.probeStepComplete 3 goodAnswers) (probing fun c =>
      { c with journal := { c.journal with identity := some [0x41] } })
    c.seq.outcome = .foreign ∧ c.seq.state = .probe ∧ c.seq.ret.map SeqReturn.target = some .held := by decide +kernel
/-- A power phase with its poll in hand. -/
def polling (decision : Bool) : State :=
  cageIn fun c =>
    let c1 := attemptOf (attemptReads Profile.default .powerup) (inPhase .powerup .power c)
    { c1 with seq := { c1.seq with decision := decision } }
/-- R66: with decision YES the match leads to STAGED. -/
theorem test_probeH_match :
    (then3 (.probeHMatch 3 [.taken [], .taken [0]]) (polling true)).seq.state = .staged := by decide +kernel
/-- R59: the fault BOOT-TIMEOUT with detail 1 = 1, and the way to FAULTED. -/
theorem test_boot_timeout :
    let s := after (exec (.bootTimeout 3 none) (cageIn (inPhase .probe .boot)))
    s.log.first.map FaultEntry.kind = some .bootTimeout ∧ (s.cage 3).seq.ret.map SeqReturn.target = some .faulted := by
  decide +kernel
/-- R67: POWER-TIMEOUT reasserts MLPW. -/
theorem test_power_timeout : (then3 (.powerTimeout 3 none) (polling true)).seq.mlpw = true := by decide +kernel
/-- R81: with its poll carried to its end the timer is IDLE at the limit of 8000, and RETURN begins at 0 when the poll ends. -/
theorem test_return_after_carried :
    let s := after (exec (.powerTimeout 3 none) (polling true))
    (s.cage 3).timer = { use := .idle, elapsed := 8000 } ∧
    (then3 (.probeAttemptNotYet 3 [.busy]) s).timer = { use := .ret, elapsed := 0 } := by decide +kernel
/-- R86: a match captures the boot time 460 before its attempt has ended, and compare B discards it. -/
theorem test_capture_discarded :
    let s := after (exec (.probeAttemptNotYet 3 [.taken [], .taken [0]]) (probing id))
    (s.cage 3).seq.bootTime = 460 ∧ (s.cage 3).seq.attempt.isSome = true ∧
    (then3 (.bootTimeout 3 (some .busy)) s).seq.bootTime = 0 := by decide +kernel
/-- An ADOPT step about to complete, the lines released. -/
def adopting (f : Cage → Cage) : State :=
  cageIn fun c =>
    let c1 := attemptOf (attemptReads Profile.default .adopt) (inPhase .adopt .adopt c)
    f { c1 with seq := { c1.seq with mrst := false, mlpw := false } }
/-- 3.15, cage 3: SAME with the flag clear is kept; cage 4: with the flag set it is reset to SETTLE. -/
theorem test_adopt_step :
    (then3 (.adoptStepComplete 3 [.taken [], .taken [0], .taken [], .taken [7]]) (adopting id)).seq.ret.map
      SeqReturn.target = some .live ∧
    (then3 (.adoptStepComplete 3 [.taken [], .taken [0], .taken [], .taken [7]]) (adopting fun c =>
      { c with journal := { c.journal with incomplete := true } })).seq.state = .settle := by decide +kernel
/-- 3.15, cage 6: compare B resets the cage to SETTLE with no fault. -/
theorem test_adopt_compareB :
    let s := after (exec (.adoptCompareB 3 none) (cageIn (inPhase .adopt .adopt)))
    (s.cage 3).seq.state = .settle ∧ s.log.first = none := by decide +kernel
/-- A sequencer's cursor return in hand toward LIVE, from the cursors of 1.4. -/
def returning (retry : Retry) (f : Cage → Cage) : State :=
  cageIn fun c => f { inState .powerup c with
    gate := { c.gate with ctrl := { sheet := 17, pointer := 3 }, modc := { sheet := some 16, pointer := some 192 } }
    timer := { use := .ret, elapsed := 0 }
    seq := { c.seq with state := .powerup, started := true,
                        ret := some { target := .live, goal := { sheet := 17, pointer := 3 }, retry := retry } } }
/-- 1.4: the select TAKEN leaves (17, 126); BUSY at 0 makes the next attempt due at 10. -/
theorem test_return_goes_on :
    (then3 (.cursorReturnTransactionEnd 3 (.taken [])) (returning .inHand id)).gate.modc =
      { sheet := some 17, pointer := some 126 } ∧
    (then3 (.cursorReturnTransactionEnd 3 .busy) (returning .inHand id)).seq.ret.map SeqReturn.retry = some (.due 10) := by
  decide +kernel
/-- 1.4: the write-busy limit at step 1 leaves (UNKNOWN, UNKNOWN), and the cage enters the state it led to. -/
theorem test_return_skipped :
    let c := then3 (.writeBusyLimit 3) (returning .limit id)
    c.gate.modc = { sheet := none, pointer := none } ∧ c.seq.state = .live := by decide +kernel
theorem test_busyRetry : (then3 (.busyRetryDue 3) (returning (.due 10) id)).timer.elapsed = 10 := by decide +kernel

/-! ## Power admission (5.2, 5.9) -/

/-- 5.2: the draws of classes 1, 6 and 7 with the factor 24; a cage that joins an empty list is charged at once. -/
theorem test_draw :
    (15 * 24 + 15) / 16 = 23 ∧
    (let p := { calm.power with factor := 24, draws := (calm.power.draws.set 6 305).set 7 640 }
     let s := (({ calm with power := p }).modSeq 3 fun q => { q with powerClass := 6 }).toQueued 3
     s.power.list = [] ∧ s.power.charges = [⟨3, 458⟩]) := by decide +kernel
/-- 5.9, sixth and seventh lines: committed 0 admits 20 alone, and 960 + 270 is above 1200. -/
theorem test_admission :
    let s := after (exec .admission { calm with power := { calm.power with
      budget := 1200, list := [⟨20, 7, 960⟩, ⟨21, 4, 270⟩], charges := [] } })
    s.power.list.map AdmissionEntry.cage = [21] ∧ s.power.charges = [⟨20, 960⟩] ∧
      (s.cage 20).seq.state = .powerup := by decide +kernel

/-! ## The Restore Engine (6.9) -/

/-- The journal of 6.9, its closed segment cut to A′ and the marker D, with E in the open one. -/
def journal69 (c : Cage) : Cage :=
  { c with journal := { c.journal with closed := [[0, 1]], opened := [2], quota := 64 } }
/-- The state of 6.9 with this work in hand and these cursors. -/
def state69 (x : ChannelCtx) (m : ModCursor) : State :=
  stored (withTable (restoreIn x fun c => { journal69 c with gate := { c.gate with modc := m } }))
    [rec16 132 [0x11] 0 .plain, rec16 192 [1] 1 .marker, rec16 128 [1, 2, 3, 4] 0 .plain]
/-- The context of channel 2 after a command. -/
def ctx2 (i : Instr) (s : State) : Option ChannelCtx := (after (exec i s)).channels[(2 : Fin 4)].ctx
/-- 6.9: channels 0 and 1 hold other cages, so channel 2 is granted. -/
theorem test_grant :
    let hold := fun (n : CageId) (h : Channel) => { h with ctx := some { ctxOf .idle with cage := n } }
    let s := after (exec .channelGrant { (((cageIn fun c => inState .staged (journal69 c)).modChannel 0 (hold 0)).modChannel 1
      (hold 1)) with staged := [3] })
    (s.channels[(2 : Fin 4)].ctx.map ChannelCtx.cage) = some 3 ∧ (s.cage 3).seq.state = .restore ∧ s.staged = [] := by
  decide +kernel
/-- R193: a record with one flipped check bit is corrected before its write, counted, and written back. -/
theorem test_grant_corrected :
    let s0 := { stored (cageIn fun c => inState .staged (journal69 c)) [rec16 132 [0x11] 0 .plain] with staged := [3] }
    let s := after (exec .channelGrant (s0.modSlots fun m => SlotMem.write m 0 { SlotMem.read m 0 with syndrome := 0x10 }))
    s.log.corrected = 1 ∧ (SlotMem.read s.store.slots 0).syndrome = 0 ∧
      s.channels[(0 : Fin 4)].ctx.map ChannelCtx.work = some (.write (rec16 132 [0x11] 0 .plain)) := by decide +kernel
/-- 6.9 line 1: the sheet select leaves the module cursor at (16, 126). -/
theorem test_record_select :
    (then3 (.recordWriteEnd 3 (.taken [])) (state69 (ctxOf (.write (rec16 132 [0x11] 0 .plain)))
      { sheet := some 0, pointer := some 4 })).gate.modc = { sheet := some 16, pointer := some 126 } := by decide +kernel
/-- 6.9 line 6: after the marker the channel waits 50 ms. -/
theorem test_record_marker :
    (ctx2 (.recordWriteEnd 3 (.taken [])) (state69 { ctxOf (.write (rec16 192 [1] 1 .marker)) with recIndex := 1 }
      { sheet := some 16, pointer := some 192 })).map ChannelCtx.work = some (.postDelay 50) := by decide +kernel
theorem test_postDelay :
    (ctx2 (.postDelayEnd 3) (state69 { ctxOf (.postDelay 50) with recIndex := 1 }
      { sheet := some 16, pointer := some 193 })).map ChannelCtx.work = some (.verify (rec16 132 [0x11] 0 .plain)) := by
  decide +kernel
/-- 6.9 line 10: a difference with retries used 0 sends the segment back to its head. -/
theorem test_verify_differs :
    (ctx2 (.verifyReadEnd 3 [.taken [], .taken [0x12]]) (state69 { ctxOf (.verify (rec16 132 [0x11] 0 .plain)) with
      pass := .verify } { sheet := some 16, pointer := some 193 })).map (fun x => (x.retriesUsed, x.work)) =
      some (1, .write (rec16 132 [0x11] 0 .plain)) := by decide +kernel
/-- 6.9 line 21: the fetch TAKEN makes the slot READY, the module cursor 8 positions on. -/
theorem test_fetch :
    let c := then3 (.delayedReadFetchEnd 3 [.taken [], .taken [1, 2, 3, 4, 5, 6, 7, 8]])
      ((state69 (ctxOf (.fetch { sheet := 0, pointer := 3 })) { sheet := some 0, pointer := some 126 }).modBuffers 3
        fun b => { b with slot := .pending { sheet := 0, pointer := 3 } true })
    c.buffers.slot = .ready { sheet := 0, pointer := 3 } [1, 2, 3, 4, 5, 6, 7, 8] ∧ c.gate.modc.pointer = some 11 := by
  decide +kernel
/-- R93: at the expiry the slot becomes FREE and a read discard is counted. -/
theorem test_discard :
    let c := then3 (.discardTimerExpiry 3) (restoreIn (ctxOf .idle) fun c => { c with buffers := { c.buffers with
      slot := .ready { sheet := 0, pointer := 3 } [1], discard := some { elapsed := 0, limit := 80 } } })
    c.buffers.slot = .free ∧ c.seq.counters.readDiscards = 1 := by decide +kernel
/-- 6.9 line 26: entry 1, [125, 16], leaves the module on sheet 16, the queue empty and CLOSED, and a cursor return begun. -/
theorem test_deferred_applied :
    let e : DeferEntry := { sheet := 0, offset := 125, data := [16], filling := false }
    let s := after (exec (.deferredWriteApplied 3 [.taken []]) (restoreIn { ctxOf (.apply e) with stage := .drain } fun c =>
      { c with buffers := { c.buffers with queue := [e] } }))
    (s.cage 3).gate.modc = { sheet := some 16, pointer := some 126 } ∧ (s.cage 3).buffers.closed = true ∧
      s.channels[(2 : Fin 4)].ctx.map ChannelCtx.work = some (.ret { sheet := 0, pointer := 0 }) := by decide +kernel

/-! ## The gate (7.12, 7.13, 8.7) -/

theorem test_upperStart : (then3 (.upperStart 3) (cageIn (inState .live))).gate.relay = .holding := by decide +kernel
/-- R143: a write to the module is ACKed by the gate itself; a read of it in HELD waits for the cage port. -/
theorem test_addressByte :
    (then3 (.addressByte 3 0x50 false false) (handIn .live .holding (hand .undecided .address none))).gate.answer = .ack ∧
    (then3 (.addressByte 3 0x50 true true) (handIn .held .holding (hand .undecided .address none))).gate.stallUse = .stuck := by
  decide +kernel
/-- R149: offset 122 is intercepted; 7.12: offset 186 in LIVE is relayed with capture. -/
theorem test_offsetByte :
    ((then3 (.offsetByte 3 122 false) (handIn .live .holding (hand .undecided .offset none))).gate.inHand.map
      InHand.treatment) = some .intercept ∧
    ((then3 (.offsetByte 3 186 false) (handIn .live .holding (hand .undecided .offset none))).gate.inHand.map
      InHand.treatment) = some .relayCapture := by decide +kernel
/-- 7.12: the offset ACKed leaves both cursors at (_, 186), RELAYING. -/
theorem test_downstream_offset :
    let g := (then3 (.downstreamAddressAnswer 3 true) (handIn .live .holding
      (hand .relayCapture .downOffset (some 186)))).gate
    g.relay = .relaying ∧ g.ctrl.pointer = 186 ∧ g.modc.pointer = some 186 := by decide +kernel
/-- 7.12: a data byte taken moves both pointers; R152: one at 125 is noted. -/
theorem test_writeByte :
    let s := (handIn .live .relaying (hand .relayCapture .data (some 125))).modGate 3 fun g =>
      { g with ctrl := { g.ctrl with pointer := 125 }, modc := { g.modc with pointer := some 125 } }
    let g := (then3 (.writeDataByte 3 16 true) s).gate
    g.ctrl.pointer = 126 ∧ g.modc.pointer = some 126 ∧ g.inHand.bind InHand.sheetSelect = some 16 := by decide +kernel
/-- 8.7 step 7: the 17th byte of [200, 20 bytes] is NACKed, the entry leaves, and the pointer stands at 216. -/
theorem test_deferByte_17 :
    let h := { hand .defer .data (some 200) with place := .queued }
    let c := then3 (.deferDataByte 3 0) (restoreIn (ctxOf .idle) fun c => { c with
      gate := { c.gate with relay := .holding, inHand := some h, ctrl := { sheet := 5, pointer := 126 } }
      buffers := { c.buffers with queue :=
        [{ sheet := 5, offset := 200, data := List.replicate 16 0, filling := true }] } })
    c.buffers.queue = [] ∧ c.gate.ctrl = { sheet := 5, pointer := 216 } ∧ c.seq.counters.busyRefusals = 1 ∧
      c.gate.answer = .nack := by decide +kernel
/-- R173: a comparison that waits for a DEFER write goes on at the write's end, not where its byte is refused. -/
theorem test_comparison_waits :
    let s := after (exec (.deferDataByte 3 0) (restoreIn (ctxOf (.awaitCompare { sheet := 0, pointer := 9 } true)) fun c =>
      { c with gate := { c.gate with relay := .holding, inHand := some (hand .defer .data (some 200)) } }))
    let work := fun s : State => s.channels[(2 : Fin 4)].ctx.map ChannelCtx.work
    work s = some (.awaitCompare { sheet := 0, pointer := 9 } true) ∧
    work (after (exec (.upperStop 3) s)) = some (.ret { sheet := 0, pointer := 200 }) := by decide +kernel
theorem test_readByte :
    let g := (then3 (.readDataByte 3 0x5A true) (handIn .live .relaying (readHand .relay))).gate
    g.answer = .byte 0x5A ∧ g.ctrl.pointer = 1 ∧ g.modc.pointer = some 1 := by decide +kernel
/-- R150: after the controller's NACK the module supplies no byte, and the pointers stand. -/
theorem test_readByte_ended :
    let g := (then3 (.readDataByte 3 0x5A true) (handIn .live .relaying { readHand .relay with nacked := true })).gate
    g.answer = .byte 0xFF ∧ g.ctrl.pointer = 0 := by decide +kernel
/-- 8.7 step 5: the slot's byte is given and the controller pointer moves. -/
theorem test_slotByte :
    let g := (then3 (.slotReadByte 3 true) (restoreIn (ctxOf .idle) fun c => { c with
      gate := { c.gate with inHand := some { readHand .readSlot with served := true }, relay := .holding }
      buffers := { c.buffers with slot := .ready { sheet := 0, pointer := 0 } [0x77] } })).gate
    g.answer = .byte 0x77 ∧ g.ctrl.pointer = 1 ∧ g.modc.pointer = some 0 := by decide +kernel
/-- R148: at the stop a LIVE write goes to the journal, and the gate is IDLE. -/
theorem test_upperStop :
    let s := after (exec (.upperStop 3) ((holding 64 []).modGate 3 fun g => { g with
      relay := .relaying, port := .busy
      inHand := some { hand .relayCapture .data (some 130) with data := [1, 2] } }))
    (s.cage 3).gate.relay = .idle ∧ s.recordIn 0 = rec16 130 [1, 2] 0 .plain := by decide +kernel
/-- R151: after a repeated start the gate is in HOLDING with a new transaction at its address byte. -/
theorem test_repeatedStart :
    let g := (then3 (.upperRepeatedStart 3) (handIn .live .relaying (hand .relay .data none))).gate
    g.relay = .holding ∧ g.inHand.map InHand.stage = some .address := by decide +kernel
/-- 7.12: detail 1 is the address byte 0xA0, detail 2 the four bytes completed, and the gate is in HUNT. -/
theorem test_stall :
    let s := after (exec (.upstreamStall 3 false 100) (handIn .live .relaying
      { hand .relayCapture .data (some 186) with data := [1, 2, 3, 4], upperBytes := 4 }))
    (s.cage 3).gate.relay = .hunt ∧
      s.log.first.map (fun e => (e.kind, e.detail1, e.detail2)) = some (.upstreamStall, 0xA0, 4) := by decide +kernel
/-- R94: a millisecond before the limit of 40 no stall occurs. -/
theorem test_stall_below_limit :
    (then3 (.upstreamStall 3 false 39) (handIn .live .relaying (hand .relay .data none))).gate.relay = .relaying := by
  decide +kernel
theorem test_busFree :
    (then3 (.busFreeInterval 3 100) (cageIn fun c => { inState .live c with gate := { c.gate with
      relay := .hunt, stallUse := .busFree } })).gate.relay = .idle := by decide +kernel
/-- R156: lines high for 39 of the limit's 40 milliseconds do not end HUNT, however long it has lasted. -/
theorem test_busFree_below_limit :
    (then3 (.busFreeInterval 3 39) (cageIn fun c => { inState .live c with gate := { c.gate with
      relay := .hunt, stallUse := .busFree, stallElapsed := 200 } })).gate.relay = .hunt := by decide +kernel
/-- A HELD cage 9 as 7.13 has it, here cage 3: a read waits on a low CDA. -/
def stuckGate (clearing : Bool) : State :=
  cageIn fun c => { inState .held c with
    seq := { c.seq with state := .held, mrst := false }
    gate := { c.gate with
      relay := .holding, inHand := some { readHand .relay with stage := .downAddress }
      stallUse := if clearing then .stopped else .stuck, clearing := clearing } }
theorem test_cdaReleased : (then3 (.cdaReleased 3) (stuckGate false)).gate.stallUse = .stopped := by decide +kernel
theorem test_stuckDetection : (then3 (.stuckDetectionExpiry 3) (stuckGate false)).gate.clearing = true := by decide +kernel
/-- 7.13, a clear that succeeds: bus clears becomes 1. -/
theorem test_busClear_succeeds : (then3 (.busClearEnd 3 true) (stuckGate true)).seq.counters.busClears = 1 := by
  decide +kernel
/-- 7.13, a clear that fails: BUS-STUCK with 0xFF and 9, FAULTED with MRST_n released and MLPW asserted, NACK. -/
theorem test_busClear_fails :
    let s := after (exec (.busClearEnd 3 false) (stuckGate true))
    let c := s.cage 3
    s.log.first.map (fun e => (e.kind, e.state, e.detail1, e.detail2)) = some (.busStuck, some .held, 255, 9) ∧
      c.seq.state = .faulted ∧ c.seq.mrst = false ∧ c.seq.mlpw = true ∧ c.gate.answer = .nack ∧
      c.gate.modc = { sheet := none, pointer := none } := by decide +kernel
/-- R160: the hold is logged with detail 2 = 0 and the cage goes to FAULTED. -/
theorem test_cclHold :
    let s := after (exec (.cclHoldExpiry 3 100) (handIn .live .relaying (hand .relay .data none)))
    (s.cage 3).seq.state = .faulted ∧ s.log.first.map FaultEntry.detail2 = some 0 := by decide +kernel

/-- R160: below the stuck detection time of 5 the hold is measured on the stall timer, and the relay goes on. -/
theorem test_cclHold_measured :
    let g := (then3 (.cclHoldExpiry 3 4) (handIn .live .relaying (hand .relay .data none))).gate
    g.relay = .relaying ∧ g.stallUse = .hold ∧ g.stallElapsed = 4 := by decide +kernel
/-- R160: released then, the relay goes on, and a controller that makes no progress stalls. -/
theorem test_cclHold_released :
    let s := after (exec (.cclHoldExpiry 3 4 true) (handIn .live .relaying (hand .relay .data none)))
    (s.cage 3).gate.stallUse = .upstream ∧ (then3 (.upstreamStall 3 false 40) s).gate.relay = .hunt := by decide +kernel

/-! ## Directives and notices (chapters 9, 11) -/

/-- R176: an unknown code is refused with reason CODE, 1. -/
theorem test_unknownCode :
    (after (exec (.unknownDirectiveCode 3 0x0C (some 5)) (cageIn (inState .live)))).notice.queue.map Frame.bytes =
      [[0xA5, 0x07, 3, 0x0C, 5, 8, 1, 0]] := by decide +kernel
theorem test_reseat :
    let c := then3 (.reseat 3 none) (cageIn (inState .live))
    c.seq.state = .settle ∧ c.seq.mrst = true ∧ c.seq.mlpw = true := by decide +kernel
/-- R184: HELD with a usable, empty journal goes to QUEUED with decision NO, and, alone on the list, is admitted at once. -/
theorem test_resume :
    let c := then3 (.resume 3 none) (cageIn (inState .held))
    c.seq.state = .powerup ∧ c.seq.decision = false := by decide +kernel
/-- 10.4 step 11: FORGET frees the slots unread; the journal is OPEN and empty. -/
theorem test_forget :
    let s := after (exec (.forget 3 none) (holding 64 [rec16 130 [1] 0 .plain]))
    (s.cage 3).journal.slots = [] ∧ s.store.freeCount = 2048 := by decide +kernel
/-- R186: an empty journal refuses RESTORE-NOW; one with a record is staged with decision YES. -/
theorem test_restoreNow :
    (then3 (.restoreNow 3 none) (cageIn (inState .live))).seq.state = .live ∧
    (then3 (.restoreNow 3 none) (holding 64 [rec16 130 [1] 0 .plain])).seq.state = .staged := by decide +kernel
theorem test_freeze : (then3 (.freeze 3 none) (cageIn (inState .live))).journal.state = .frozen := by decide +kernel
theorem test_thaw :
    (then3 (.thaw 3 none) (cageIn fun c => { inState .live c with journal := { c.journal with state := .frozen } })).journal.state
      = .opened := by decide +kernel
theorem test_report : (after (exec (.report 3 none) (cageIn (inState .live)))).notice.queue.length = 5 := by decide +kernel
/-- R187, R195: 0x03 becomes pending, and 0x00 makes the mask absent. -/
theorem test_inject :
    (then3 (.inject 3 (some 0x03)) (cageIn (inState .live))).journal.mask = some 0x03 ∧
    (then3 (.inject 3 (some 0x00)) (cageIn fun c => { inState .live c with journal := { c.journal with mask := some 1 } })).journal.mask
      = none := by decide +kernel
theorem test_log : (after (exec (.log 3 none) calm)).notice.queue.map Frame.kind = [.log1, .log2, .log3] := by decide +kernel
/-- R199: CLEARLOG empties the log and keeps the uptime. -/
theorem test_clearLog :
    let s := after (exec (.clearLog 3 none) { calm with log := { calm.log with later := 3, corrected := 2, uptime := 9 } })
    s.log.later = 0 ∧ s.log.corrected = 0 ∧ s.log.uptime = 9 := by decide +kernel
theorem test_reloadDirective : (after (exec (.reload 3 none) calm)).loader.load = some .reload := by decide +kernel
/-- R205: the leaving makes room for the LOST frame that carries the count. -/
theorem test_noticeSent :
    let f := frameOf .log1 0 0 0 0 0 0
    let s := after (exec .noticeFrameSent { calm with notice := { queue := List.replicate 32 f, lost := 7 } })
    s.notice.queue.length = 32 ∧ (s.notice.queue.getLast?.map Frame.a1) = some 7 ∧ s.notice.lost = 0 := by decide +kernel
/-- 11.4: the PROFILE frame after a line reset carries 2, 1, the check word, and bit 1 set. -/
theorem test_profileFrame :
    (profileFrame .lineReset .good (.word 0x1234) true false).bytes = [0xA5, 0x10, 0xFF, 2, 1, 0x12, 0x34, 2] := by decide

/-- The syndrome put into a slot. -/
def flawed (s : State) (i : Nat) (e : Byte) : State :=
  s.modSlots fun m => SlotMem.write m i { SlotMem.read m i with syndrome := e }
/-- A slot whose syndrome has one bit set names its check bit. -/
theorem correctable_of (s : State) (i : Nat) (h : (SlotMem.read s.store.slots i).syndrome = 0x01) : s.correctable i := by
  unfold State.correctable
  rw [h]
  exact Or.inl (by decide)
/-- A slot whose syndrome has two bits set names no bit. -/
theorem uncorrectable_of (s : State) (i : Nat) (h : (SlotMem.read s.store.slots i).syndrome = 0x03) : s.uncorrectable i := by
  unfold State.uncorrectable State.clean State.correctable
  rw [h]
  refine ⟨by decide, ?_⟩
  rintro (h1 | h1)
  · revert h1
    decide
  · obtain ⟨j, hj⟩ := Option.isSome_iff_exists.mp h1
    obtain ⟨hlt, hc⟩ := namedBit?_some hj
    have hm : (0x03 : Byte) ∈ columns := by
      have hl : j < columns.length := by rw [columns_length]; exact hlt
      rw [← hc, List.getD_eq_getElem _ _ hl]
      exact List.getElem_mem hl
    have := (columns_odd hm).1
    revert this
    decide

/-! ## Witnesses: states that meet the hypotheses of each statement, clause by clause -/

theorem witness_StepRunsFrontCommand :
    ({ calm with pending := [.noticeFrameSent, .admission] } : State).pending = .noticeFrameSent :: [.admission] := rfl
theorem witness_IdleStepOrder :
    let adopts := { calm with power := { calm.power with pendingBudget := some 0 } }
    let passes := { calm with power := { calm.power with list := [⟨3, 0, 0⟩] } }
    let grants := { calm with staged := [3] }
    (adopts.pending = [] ∧ adopts.power.adoptionHolds = true) ∧
    (passes.pending = [] ∧ passes.power.adoptionHolds = false ∧ passes.power.headPasses = true) ∧
    (grants.pending = [] ∧ grants.power.adoptionHolds = false ∧ grants.power.headPasses = false ∧ grants.staged ≠ [] ∧
      grants.freeChannel.isSome = true) ∧
    (calm.pending = [] ∧ calm.power.adoptionHolds = false ∧ calm.power.headPasses = false ∧ calm.staged = []) := by
  decide +kernel
theorem witness_TickCountsTime : ({ calm with lineReset := true } : State).lineReset = true ∧ calm.lineReset = false := by
  decide +kernel
theorem witness_LineResetAssertAbandons :
    ({ calm with lineReset := true } : State).lineReset = true ∧ calm.lineReset = false := by decide +kernel
theorem witness_LineResetReleaseAdopts :
    ({ cageIn (inState .live) with lineReset := true } : State).lineReset = true ∧
    ((cageIn (inState .live)).cage 3).mpres = true ∧ ((cageIn (inState .live)).cage 3).seq.state ≠ .empty ∧
    (calm.cage 3).mpres = false := by decide +kernel
theorem witness_ResetLoadEndsInService :
    State.reset.loader.load = some .powerOn ∧
    ((State.reset.modCage 3 (inState .empty)).cage 3).mpres = true ∧
    ((State.reset.modSeq 3 fun q => { q with adoptPending := true }).cage 3).seq.adoptPending = true ∧
    ({ calm with loader := { calm.loader with load := some .lineReset } } : State).loader.load = some .lineReset := by
  decide +kernel
theorem witness_JournalsKeptOrDiscarded :
    let kept := { calm with loader := { calm.loader with load := some .lineReset } }
    (kept.loader.load = some .lineReset ∧ SlotMem.wf kept.store.slots = true ∧ kept.loader.everLoaded = true ∧
      kept.store.checkValue = (finding []).check []) ∧
    (State.reset.loader.load = some .powerOn ∧ SlotMem.wf State.reset.store.slots = true ∧
      State.reset.loader.everLoaded = false) := by decide +kernel
theorem witness_ReloadHandsOn :
    ({ calm with loader := { calm.loader with load := some .reload } } : State).loader.load = some .reload ∧
    finding image = .good ∧ finding [] ≠ .good := ⟨rfl, test_image_good, by decide⟩
/-- The three cases at their boundaries: draws equal to the pending budget, one charge above it, two charges one above. -/
theorem witness_PendingBudgetAdoption :
    let with' := fun (b : Nat) (cs : List Charge) => { calm with power := { calm.power with
      budget := 9, pendingBudget := some b, charges := cs } }
    let fits := with' 5 [⟨3, 2⟩, ⟨4, 3⟩]
    let alone := with' 5 [⟨3, 6⟩]
    let waits := with' 5 [⟨3, 3⟩, ⟨4, 3⟩]
    calm.power.pendingBudget = none ∧
    (fits.power.pendingBudget = some 5 ∧ (fits.power.charges.map Charge.draw).sum ≤ 5) ∧
    (alone.power.pendingBudget = some 5 ∧ alone.power.charges.length ≤ 1) ∧
    (waits.power.pendingBudget = some 5 ∧ 5 < (waits.power.charges.map Charge.draw).sum ∧
      1 < waits.power.charges.length) := by decide +kernel
theorem witness_PresenceStartsSettle :
    ((calm.cage 3).mpres = false ∧ calm.inService = true ∧ (calm.cage 3).seq.state = .empty) ∧
    ((cageIn (inState .live)).cage 3).mpres = true ∧ State.reset.inService = false := by decide +kernel
/-- The adoption of a timing set, the sequencer's the last flag and not. -/
theorem witness_SettleEndsInProbe_adoption :
    let due := fun (b : Bool) => { (cageIn fun c => { c with
      seq := { c.seq with adoptionDue := true }, gate := { c.gate with adoptionDue := b } }) with
      pendingTiming := some TimingSet.default }
    (∀ b ∈ [true, false], (due b).pendingTiming = some TimingSet.default ∧ ((due b).cage 3).seq.adoptionDue = true) ∧
    calm.pendingTiming = none ∧ ((due true).adoptSeq 3).adoptionLeft ∧ ¬((due false).adoptSeq 3).adoptionLeft := by
  unfold State.adoptionLeft
  decide +kernel
theorem witness_SettleEndsInProbe :
    ((cageIn (inPhase .settle .settle)).cage 3).timer.use = .phase .settle none 300 := by decide +kernel
/-- A LIVE cage 3 with a directive waiting. -/
def waitingIn (st : CageState) (d : Directive) (f : Cage → Cage) : State :=
  cageIn fun c => f { inState st c with slot := some d }
theorem witness_RemovalEmptiesCage :
    let s := handIn .live .relaying (hand .relayCapture .data (some 130))
    let quiet := waitingIn .settle { code := 4, arg := none } id
    (s.lineReset = false ∧ s.channelOf 3 = none ∧
      (let c := s.cage 3; c.mpres = true ∧ c.seq.adoptPending = false ∧ c.seq.state ≠ .empty ∧
        c.gate.inHand = some (hand .relayCapture .data (some 130)))) ∧
    (quiet.lineReset = false ∧ quiet.channelOf 3 = none ∧
      (let c := quiet.cage 3; c.mpres = true ∧ c.seq.adoptPending = false ∧ c.seq.state = .settle ∧ c.gate.inHand = none ∧
        c.slot = some { code := 4, arg := none })) ∧
    (∀ h ∈ [hand .relayCapture .downAddress (some 130), hand .relay .downOffset (some 130), hand .intercept .data (some 122)],
      let s := handIn .held .holding h
      s.lineReset = false ∧ s.channelOf 3 = none ∧ (s.cage 3).mpres = true ∧ (s.cage 3).seq.adoptPending = false ∧
      (s.cage 3).seq.state = .held ∧ (s.cage 3).gate.inHand = some h) := by decide +kernel
theorem witness_RemovalBeforeService :
    (calm.cage 3).mpres = false ∧
    (({ cageIn (inState .live) with lineReset := true } : State).lineReset = true ∧
      (({ cageIn (inState .live) with lineReset := true } : State).cage 3).mpres = true) ∧
    (let c := (cageIn fun c => { inState .empty c with seq := { c.seq with adoptPending := true } }).cage 3
     c.mpres = true ∧ c.seq.adoptPending = true) ∧
    (let c := (cageIn (inState .empty)).cage 3; c.mpres = true ∧ c.seq.adoptPending = false ∧ c.seq.state = .empty) := by
  decide +kernel
/-- The due points at compare A, at compare B itself, and one beyond it. -/
theorem witness_AttemptsBeginWhenDue :
    let dueAt := fun v : Nat => cageIn fun c =>
      { inPhase .probe .boot c with seq := { (inPhase .probe .boot c).seq with due := .at v } }
    (let c := (cageIn (inPhase .probe .boot)).cage 3
     c.timer.use = .phase .boot (some 20) 2000 ∧ c.seq.due = .compareA) ∧
    (let c := (dueAt 2000).cage 3; c.timer.use = .phase .boot (some 20) 2000 ∧ c.seq.due = .at 2000) ∧
    (let c := (dueAt 2001).cage 3; c.timer.use = .phase .boot (some 20) 2000 ∧ c.seq.due = .at 2001) := by decide +kernel
theorem witness_AnswersEndAttempt :
    let a : Attempt :=
      { began := 460, todo := [], identity := [], classByte := 0, matched := false, pointed := true, kept := noCaptures }
    a.pointed = true ∧ (Probe.default.read).purpose = .poll 0 0 ∧
    ((Profile.default.fields.map IdField.read).map AttemptRead.purpose) = [.field] ∧
    ((attemptReads Profile.default .probe).getLast?.map AttemptRead.purpose) = some .cls := by decide
theorem witness_NotYetPacesNextAttempt :
    let c := (probing id).cage 3
    let a : Attempt := { began := 460, todo := attemptReads Profile.default .probe, identity := [], classByte := 0,
                         matched := false, pointed := false, kept := noCaptures }
    c.seq.attempt = some a ∧ c.seq.started = true ∧ c.gate.stuckForSeq = false ∧ c.gate.stallBusy = false ∧
    runAttempt c.gate.modc a a.todo [.taken [], .taken [0], .busy] =
      ({ sheet := some 0, pointer := some 1 }, .notYet true) ∧
    runAttempt c.gate.modc a a.todo [.taken [], .taken [0]] =
      ({ sheet := some 0, pointer := some 1 }, .ongoing { a with todo := a.todo.drop 1, matched := true }) := by
  decide +kernel
theorem witness_RemovalAbandonsRestore :
    let h := { hand .defer .data (some 130) with place := .queued }
    let e : DeferEntry := { sheet := 16, offset := 130, data := [7], filling := true }
    let s := restoreIn (ctxOf .idle) fun c => { c with
      slot := some { code := 4, arg := none }
      gate := { c.gate with inHand := some h, relay := .holding }
      buffers := { c.buffers with queue := [{ e with filling := false }, e] } }
    s.lineReset = false ∧ s.channelOf 3 = some (2, ctxOf .idle) ∧
    (let c := s.cage 3
     c.mpres = true ∧ c.seq.adoptPending = false ∧ c.seq.state = .restore ∧ c.gate.inHand = some h ∧
     h.treatment = .defer ∧ h.place = .queued ∧ c.buffers.filling? = some e) := by decide +kernel
/-- A completed probe step: without an identity record QUEUED, with another module's HELD. -/
theorem witness_ProbeStepDecides :
    let a : Attempt := { began := 460, todo := attemptReads Profile.default .probe, identity := [], classByte := 0,
                         matched := false, pointed := false, kept := noCaptures }
    let done : Attempt := { began := 460, todo := [], identity := [0x42], classByte := 0, matched := true, pointed := false,
                            kept := noCaptures }
    let c := (probing id).cage 3
    (c.seq.state = .probe ∧ c.seq.attempt = some a ∧ c.seq.started = true ∧ c.gate.stuckForSeq = false ∧
      c.gate.stallBusy = false ∧
      runAttempt c.gate.modc a a.todo goodAnswers = ({ sheet := some 0, pointer := some 1 }, .complete done)) ∧
    compareIdentity Profile.default.fields none done.identity = .none ∧
    compareIdentity Profile.default.fields (some [0x41]) done.identity = .foreign := by decide +kernel
theorem witness_PowerupMatchReleasesDraw :
    let a : Attempt := { began := 460, todo := attemptReads Profile.default .powerup, identity := [], classByte := 0,
                         matched := false, pointed := false, kept := noCaptures }
    let c := (polling true).cage 3
    (c.seq.state = .powerup ∧ c.seq.attempt = some a ∧ c.seq.started = true ∧ c.gate.stuckForSeq = false ∧
      c.gate.stallBusy = false ∧ runAttempt c.gate.modc a a.todo [.taken [], .taken [0]] =
        ({ sheet := some 0, pointer := some 1 }, .complete { a with todo := [], matched := true })) ∧
    c.seq.decision = true ∧ ((polling false).cage 3).seq.decision = false := by decide +kernel
theorem witness_TimeoutsLeadToFaulted :
    ((cageIn (inPhase .probe .boot)).cage 3).timer.use = .phase .boot (some 20) 2000 ∧
    ((polling true).cage 3).timer.use = .phase .power (some 100) 8000 ∧
    ((polling true).cage 3).seqTrans?.isSome = true ∧ ((polling true).cage 3).seq.attempt.isSome = true := by decide +kernel
theorem witness_AdoptionKeepsOrResets :
    let a : Attempt := { began := 460, todo := attemptReads Profile.default .adopt, identity := [], classByte := 0,
                         matched := false, pointed := false, kept := noCaptures }
    let c := (adopting id).cage 3
    (c.seq.state = .adopt ∧ c.seq.attempt = some a ∧ c.seq.started = true ∧ c.gate.stuckForSeq = false ∧
      c.gate.stallBusy = false ∧ runAttempt c.gate.modc a a.todo [.taken [], .taken [0], .taken [], .taken [7]] =
        ({ sheet := some 0, pointer := some 1 }, .complete { a with todo := [], matched := true, identity := [7] }) ∧
      c.seq.mrst = false ∧ c.seq.mlpw = false ∧ c.journal.incomplete = false) ∧
    (let d := (cageIn (inPhase .adopt .adopt)).cage 3
     d.timer.use = .phase .adopt (some 20) 2000 ∧ d.seqTrans? = none ∧ d.gate.stuckForSeq = false ∧ d.seq.mrst = true) ∧
    (c.timer.use = .phase .adopt (some 20) 2000 ∧ c.seqTrans? = some (.pointer 0)) := by decide +kernel
theorem witness_ReturnTransactionsGoOn :
    let r : SeqReturn := { target := .live, goal := { sheet := 17, pointer := 3 }, retry := .inHand }
    (let c := (returning .inHand id).cage 3
     c.seq.ret = some r ∧ c.seq.carried = none ∧ r.retry = .inHand ∧ c.seq.started = true ∧ c.gate.stuckForSeq = false ∧
      c.gate.modc.sheet ≠ some r.goal.sheet) ∧
    (let c := (returning .inHand fun c => { c with seq := { c.seq with carried := some (.read 1) } }).cage 3
     c.seq.ret = some r ∧ c.seq.carried = some (.read 1) ∧ c.seq.attempt = none) := by decide +kernel
theorem witness_ReturnEntersTarget :
    let r : SeqReturn := { target := .live, goal := { sheet := 17, pointer := 3 }, retry := .inHand }
    (let c := (returning .inHand fun c => { c with gate := { c.gate with
       modc := { sheet := some 17, pointer := some 126 } } }).cage 3
     c.seq.ret = some r ∧ c.seq.carried = none ∧ c.seq.started = true ∧ c.gate.stuckForSeq = false ∧
      c.gate.modc.sheet = some r.goal.sheet) ∧
    (let c := (returning .inHand id).cage 3
     c.seq.ret = some r ∧ c.seq.carried = none ∧ c.seq.started = true ∧ c.gate.stuckForSeq = false ∧
      c.gate.modc.sheet ≠ some r.goal.sheet) ∧
    (let c := (returning .limit id).cage 3
     c.seq.ret = some { r with retry := .limit } ∧ ({ r with retry := .limit } : SeqReturn).retry = .limit) := by
  decide +kernel
/-- Channel 2 at the end of its cursor return, by each path and with each position of the controller cursor. -/
theorem witness_ChannelReturnEndsRestore :
    let goal : Cursor := { sheet := 0, pointer := 0 }
    let x := fun p : ChanPath => { ctxOf (.ret goal) with path := p, stage := .ret }
    let s := fun (p : ChanPath) (f : Cage → Cage) => restoreIn (x p) f
    (∀ p ∈ [ChanPath.completion, .failed, .forgotten],
      ((s p id).cage 3).seq.ret = none ∧ (s p id).channelOf 3 = some (2, x p) ∧ (x p).work = .ret goal ∧
      (x p).retry = .inHand ∧ (x p).stuck = .none ∧ ((s p id).cage 3).gate.modc.sheet = some goal.sheet ∧
      ((s p id).cage 3).gate.movesCursor = false ∧ ((s p id).cage 3).gate.ctrl = goal) ∧
    ((s .completion fun c => { c with gate := { c.gate with ctrl := { sheet := 0, pointer := 9 } } }).cage 3).gate.ctrl ≠ goal ∧
    ((s .completion fun c => { c with gate := { c.gate with
      inHand := some (hand .defer .data (some 130)) } }).cage 3).gate.movesCursor = true := by decide +kernel
theorem witness_BusyScheduleEnds :
    (let c := (returning (.due 10) id).cage 3
     c.seq.ret.map SeqReturn.retry = some (.due 10)) ∧
    (let x := { ctxOf (.write (rec16 132 [0x11] 0 .plain)) with retry := .due 10 }
     let s := restoreIn x id
     (s.cage 3).seq.ret = none ∧ s.channelOf 3 = some (2, x) ∧ x.retry = .due 10) ∧
    (let x := { ctxOf (.write (rec16 132 [0x11] 0 .plain)) with retry := .limit }
     let s := restoreIn x id
     (s.cage 3).seq.ret = none ∧ s.channelOf 3 = some (2, x) ∧ x.retry = .limit ∧
      x.work = .write (rec16 132 [0x11] 0 .plain) ∧ x.path ≠ .forgotten ∧ (s.cage 3).buffers.queue = []) := by
  decide +kernel
/-- A head whose draw reaches the limit exactly, one that exceeds it by 1, and one alone. -/
theorem witness_AdmissionInListOrder :
    let with' := fun (cs : List Charge) (d : Nat) => { calm with power := { calm.power with
      budget := 5, list := [⟨3, 0, d⟩], charges := cs } }
    calm.power.list = [] ∧
    ((with' [⟨4, 2⟩] 3).power.list = [⟨3, 0, 3⟩] ∧ ((with' [⟨4, 2⟩] 3).power.charges.map Charge.draw).sum + 3 ≤ 5) ∧
    ((with' [⟨4, 2⟩] 4).power.list = [⟨3, 0, 4⟩] ∧ 5 < ((with' [⟨4, 2⟩] 4).power.charges.map Charge.draw).sum + 4 ∧
      0 < ((with' [⟨4, 2⟩] 4).power.charges.map Charge.draw).sum) ∧
    ((with' [] 9).power.charges.map Charge.draw).sum = 0 := by decide +kernel
theorem witness_GrantTakesHead :
    let s := { stored (cageIn fun c => inState .staged (journal69 c)) [rec16 132 [0x11] 0 .plain] with staged := [3] }
    let e := fun d : Option Directive => { (cageIn fun c => { inState .staged c with slot := d }) with staged := [3] }
    let due := { s with pendingTiming := some TimingSet.default }.modChannel 0 fun h => { h with adoptionDue := true }
    (s.staged = 3 :: [] ∧ s.channels[(0 : Fin 4)].ctx = none ∧ (s.cage 3).journal.firstFrom 0 0 0 ∧ s.clean 0 ∧
      s.pendingTiming = none ∧ (s.cage 3).buffers.queue = []) ∧
    (flawed s 0 0x01).correctable 0 ∧ (flawed s 0 0x03).uncorrectable 0 ∧
    (∀ d ∈ [none, some { code := 0x01, arg := none }, some { code := 0x03, arg := some 7 }],
      (e d).staged = 3 :: [] ∧ (e d).channels[(0 : Fin 4)].ctx = none ∧ ((e d).cage 3).journal.slots = [] ∧
      ((e d).cage 3).slot = d ∧ ((e d).cage 3).buffers.queue = []) ∧
    (due.pendingTiming = some TimingSet.default ∧ due.channels[(0 : Fin 4)].adoptionDue = true) ∧ calm.staged = [] := by
  refine ⟨⟨rfl, by decide +kernel, ⟨Nat.le_refl _, ?_, [1], by decide +kernel⟩, by unfold State.clean; decide +kernel,
    rfl, by decide +kernel⟩, correctable_of _ _ (by decide +kernel), uncorrectable_of _ _ (by decide +kernel),
    by decide +kernel, by decide +kernel, by decide +kernel⟩
  intro m _ h
  omega
/-- No channel free, and only the last one free. -/
theorem witness_GrantTakesHead_channels :
    let hold := fun (s : State) (c : Fin 4) => s.modChannel c fun h => { h with ctx := some { ctxOf .idle with cage := 7 } }
    let three := hold (hold (hold calm 0) 1) 2
    (∀ d : Fin 4, (hold three 3).channels[d].ctx ≠ none) ∧ three.channels[(3 : Fin 4)].ctx = none ∧
    (∀ d : Fin 4, d < 3 → three.channels[d].ctx ≠ none) := by decide +kernel
/-- The write of A′ on the sheet it needs and on another, of the marker, and the retries at and below their number. -/
theorem witness_RecordWriteGoesOn :
    let x := ctxOf (.write (rec16 132 [0x11] 0 .plain))
    let y := { ctxOf (.write (rec16 192 [1] 1 .marker)) with recIndex := 1, retriesUsed := 1 }
    let s := state69 x { sheet := some 16, pointer := some 4 }
    let t := state69 y { sheet := some 16, pointer := some 4 }
    (s.channelOf 3 = some (2, x) ∧ x.retry = .inHand ∧ x.stuck = .none ∧ x.pointed = false ∧
      (s.cage 3).gate.modc.sheet = some 16 ∧ ((s.cage 3).journal.segments[0]?).getD [] = [0, 1] ∧ s.clean 1 ∧ s.clean 0 ∧
      x.retriesUsed < s.channels[(2 : Fin 4)].active.verifyRetries) ∧
    ((state69 x { sheet := some 0, pointer := some 4 }).cage 3).gate.modc.sheet ≠ some 16 ∧
    (t.channelOf 3 = some (2, y) ∧ y.work = .write (rec16 192 [1] 1 .marker) ∧
      ((t.cage 3).journal.segments[0]?).getD [] = [0, 1] ∧ y.segIndex < (t.cage 3).journal.closed.length ∧
      t.recordIn 1 = rec16 192 [1] 1 .marker ∧ (t.profile.rules[1]?).map Rule.postDelay = some 5 ∧
      t.channels[(2 : Fin 4)].active.verifyRetries ≤ y.retriesUsed ∧ (t.cage 3).buffers.queue = []) := by
  unfold State.clean
  decide +kernel
/-- The record after the one written, with a flaw of one bit and with one of two. -/
theorem witness_RecordWriteGoesOn_next :
    let x := ctxOf (.write (rec16 132 [0x11] 0 .plain))
    let s := fun e : Byte => flawed (state69 x { sheet := some 16, pointer := some 4 }) 1 e
    (∀ e ∈ [(0x01 : Byte), 0x03], (s e).channelOf 3 = some (2, x) ∧
      (((s e).cage 3).journal.segments[x.segIndex]?).getD [] = [0, 1] ∧ ((s e).cage 3).buffers.queue = []) ∧
    (s 0x01).correctable 1 ∧ (s 0x03).uncorrectable 1 :=
  ⟨by decide +kernel, correctable_of _ _ (by decide +kernel), uncorrectable_of _ _ (by decide +kernel)⟩
theorem witness_VerifyPassCompares :
    let m : ModCursor := { sheet := some 16, pointer := some 132 }
    let p := { ctxOf (.postDelay 50) with recIndex := 1 }
    let x := { ctxOf (.verify (rec16 132 [0x11] 0 .plain)) with pass := .verify, pointed := true }
    let z := { ctxOf (.verify (rec16 128 [1, 2, 3, 4] 0 .plain)) with pass := .verify, pointed := true, segIndex := 1,
                                                                      retriesUsed := 1 }
    let s := state69 p m
    ((state69 p m).channelOf 3 = some (2, p) ∧ ((s.cage 3).journal.segments[0]?).getD [] = [0, 1] ∧
      (s.recordIn 0).kind = .plain ∧ (s.profile.rules[(s.recordIn 0).rule]?).map Rule.verify = some true ∧ s.clean 0) ∧
    ((state69 x m).channelOf 3 = some (2, x) ∧ x.retry = .inHand ∧ x.stuck = .none ∧ x.pointed = true ∧
      x.retriesUsed < (state69 x m).channels[(2 : Fin 4)].active.verifyRetries) ∧
    ((state69 z m).channelOf 3 = some (2, z) ∧
      (((state69 z m).cage 3).journal.segments[1]?).getD [] = [2] ∧
      ((state69 z m).cage 3).journal.segments.length = 2 ∧ ((state69 z m).cage 3).slot = none ∧
      ((state69 z m).cage 3).buffers.queue = [] ∧
      (state69 z m).channels[(2 : Fin 4)].active.verifyRetries ≤ z.retriesUsed) := by
  unfold State.clean
  decide +kernel
/-- A verified segment with the open one after it, by each read slot and each directive; it holds one record and no marker. -/
theorem witness_VerifyPassCompares_boundary :
    let x := { ctxOf (.verify (rec16 132 [0x11] 0 .plain)) with pass := .verify, pointed := true, recIndex := 0 }
    let loc : Cursor := { sheet := 0, pointer := 3 }
    let s := fun (r : ReadSlot) (d : Option Directive) =>
      (state69 x { sheet := some 16, pointer := some 132 }).modCage 3 fun c => { c with
        slot := d, buffers := { c.buffers with slot := r }, journal := { c.journal with closed := [[0]] } }
    (∀ r ∈ [ReadSlot.free, .pending loc false, .ready loc [1]],
      ∀ d ∈ [none, some { code := 0x01, arg := none }, some { code := 0x03, arg := none }],
      (s r d).channelOf 3 = some (2, x) ∧ (((s r d).cage 3).journal.segments[x.segIndex]?).getD [] = [0] ∧
      ((s r d).cage 3).journal.segments[(1 : Nat)]? = some [2] ∧ ((s r d).cage 3).slot = d ∧
      ((s r d).cage 3).buffers.slot = r ∧ ((s r d).cage 3).buffers.queue = []) ∧
    (s .free none).clean 2 ∧ ((s .free none).cage 3).journal.firstFrom (x.segIndex + 1) 1 2 := by
  refine ⟨by decide +kernel, by unfold State.clean; decide +kernel, Nat.le_refl _, ?_, [], by decide +kernel⟩
  intro m h1 h2
  simp only [ctxOf] at h1
  omega
/-- The quantified hypotheses of the verify pass: the first record to read back, none after the last, no later segment. -/
theorem witness_VerifyPassCompares_order :
    (∀ m : Nat, 0 ≤ m → ¬m < 0) ∧
    (∀ m j : Nat, 0 < m → ([2] : List Nat)[m]? = some j → False) ∧ (∀ n : Nat, 1 < n → ¬n < 2) := by
  refine ⟨fun m _ h => by omega, fun m j h1 h2 => ?_, fun n h1 h2 => by omega⟩
  have : m < ([2] : List Nat).length := by
    have := (List.getElem?_eq_some_iff.mp h2).1
    exact this
  simp only [List.length_singleton] at this
  omega
/-- A fetch with its pointer written, one at its sheet select, each with a PENDING slot, and a READY slot whose timer runs. -/
theorem witness_FetchFillsSlot :
    let loc : Cursor := { sheet := 0, pointer := 3 }
    let x := { ctxOf (.fetch loc) with pointed := true }
    let pend := fun (b : Bool) (s : State) => s.modBuffers 3 fun q => { q with slot := .pending loc b }
    let s := pend true (state69 x { sheet := some 0, pointer := some 3 })
    (s.channelOf 3 = some (2, x) ∧ x.work = .fetch loc ∧ x.retry = .inHand ∧ x.stuck = .none ∧
      (s.cage 3).journal.firstFrom 1 1 2 ∧ s.clean 2 ∧ (s.cage 3).buffers.slot = .pending loc true) ∧
    ((pend false (state69 x { sheet := some 0, pointer := some 3 })).cage 3).buffers.slot = .pending loc false ∧
    (let y := ctxOf (.fetch loc)
     y.pointed = false ∧ ((state69 y { sheet := some 16, pointer := some 3 }).cage 3).gate.modc.sheet ≠ some loc.sheet) ∧
    (let c := (restoreIn (ctxOf .idle) fun c => { c with buffers := { c.buffers with
       slot := .ready loc [1], discard := some { elapsed := 0, limit := 80 } } }).cage 3
     c.buffers.slot = .ready loc [1] ∧ c.buffers.discard = some { elapsed := 0, limit := 80 }) := by
  refine ⟨⟨by decide +kernel, rfl, rfl, rfl, ⟨Nat.le_refl _, ?_, [], by decide +kernel⟩,
    by unfold State.clean; decide +kernel, by decide +kernel⟩, by decide +kernel, by decide +kernel, by decide +kernel⟩
  intro m h1 h2
  omega
theorem witness_DeferredWriteLeavesCaptured :
    let e : DeferEntry := { sheet := 0, offset := 125, data := [16], filling := false }
    let x := { ctxOf (.apply e) with stage := .drain }
    let s := fun rest : List DeferEntry => restoreIn x fun c => { c with buffers := { c.buffers with queue := e :: rest } }
    ((s []).channelOf 3 = some (2, x) ∧ x.work = .apply e ∧ x.retry = .inHand ∧ x.stuck = .none ∧
      ((s []).cage 3).gate.modc.sheet = some e.sheet ∧ ((s []).cage 3).buffers.queue.drop 1 = []) ∧
    (((s [e]).cage 3).buffers.queue.drop 1 = e :: [] ∧ e.filling = false) := by decide +kernel
theorem witness_StartOpensTransaction :
    ({ calm with lineReset := true } : State).lineReset = true ∧
    (let s := cageIn fun c => { c with gate := { c.gate with relay := .hunt, stallUse := .busFree } }
     s.lineReset = false ∧ (s.cage 3).gate.relay = .hunt) ∧
    (let s := handIn .live .holding (hand .undecided .address none)
     s.lineReset = false ∧ s.resetLoading = false ∧ (s.cage 3).gate.relay = .holding) ∧
    (calm.lineReset = false ∧ (calm.cage 3).gate.relay = .idle ∧ calm.pendingTiming = none) ∧
    (let s := { (cageIn fun c => { c with gate := { c.gate with adoptionDue := true } }) with
       pendingTiming := some TimingSet.default }
     s.lineReset = false ∧ s.pendingTiming = some TimingSet.default ∧ (s.cage 3).gate.adoptionDue = true ∧
     (s.cage 3).gate.relay = .idle) ∧
    (State.reset.lineReset = false ∧ (State.reset.cage 3).gate.relay = .idle ∧ State.reset.resetLoading = true) := by
  decide +kernel
/-- The address byte in LIVE, under a load, in QUEUED, and in RESTORE with each slot. -/
theorem witness_AddressByteDecides :
    let h := hand .undecided .address none
    let loc : Cursor := { sheet := 0, pointer := 0 }
    let far : Cursor := { sheet := 0, pointer := 9 }
    let slotIs := fun r : ReadSlot => (restoreIn (ctxOf .idle) fun c => { c with
      gate := { c.gate with relay := .holding, inHand := some h }
      buffers := { c.buffers with slot := r } })
    ((handIn .live .holding h).takes 3 h .address ∧ ((handIn .live .holding h).cage 3).seq.state = .live ∧
      h.treatment ≠ .refuse ∧ (handIn .live .holding h).profile.moduleAddr = 0x50) ∧
    (handIn .queued .holding h).takes 3 h .address ∧
    ((handIn .live .holding { h with treatment := .refuse }).takes 3 { h with treatment := .refuse } .address) ∧
    (∀ r ∈ [ReadSlot.free, .ready loc [1], .ready far [1], .pending loc true, .pending far false],
      (slotIs r).takes 3 h .address ∧ ((slotIs r).cage 3).gate.ctrl = loc ∧ ((slotIs r).cage 3).seq.state = .restore ∧
      ((slotIs r).cage 3).buffers.slot = r) ∧ far ≠ loc := by
  unfold State.takes
  decide +kernel
/-- The offset byte at an intercepted position and beside it, in LIVE, HELD, QUEUED, and in RESTORE with three and with four
entries, and with the queue CLOSED. -/
theorem witness_OffsetByteDecides :
    let h := hand .undecided .offset none
    let e : DeferEntry := { sheet := 0, offset := 1, data := [1], filling := false }
    let queueIs := fun (n : Nat) (b : Bool) => (restoreIn (ctxOf .idle) fun c => { c with
      gate := { c.gate with relay := .holding, inHand := some h }
      buffers := { c.buffers with queue := List.replicate n e, closed := b } })
    (∀ st ∈ [CageState.live, .held, .queued], (handIn st .holding h).takes 3 h .offset ∧
      ((handIn st .holding h).cage 3).seq.state = st) ∧
    (ruleOf calm.profile.rules .base 122).map (fun p => p.2.action) = some .intercept ∧
    ruleOf calm.profile.rules .base 121 = none ∧ ruleOf calm.profile.rules .base 124 = none ∧
    ((queueIs 3 false).takes 3 h .offset ∧ ((queueIs 3 false).cage 3).buffers.queue.length < 4 ∧
      ((queueIs 3 false).cage 3).buffers.closed = false) ∧
    ((queueIs 4 false).takes 3 h .offset ∧ 4 ≤ ((queueIs 4 false).cage 3).buffers.queue.length) ∧
    ((queueIs 0 true).takes 3 h .offset ∧ ((queueIs 0 true).cage 3).buffers.closed = true) := by
  unfold State.takes
  decide +kernel
theorem witness_CagePortAnswerPassedUp :
    let ok := fun h : InHand =>
      let c := (handIn .live .holding h).cage 3
      c.gate.inHand = some h ∧ c.gate.stallUse ≠ .stuck ∧ c.gate.clearing = false
    ok (hand .relay .downAddress none) ∧ ok { hand .relay .downAddress none with toModule := false } ∧
    ok (hand .relay .downAddress (some 5)) ∧ ok (hand .relay .downOffset (some 5)) := by decide +kernel
/-- Cage 3 with its gate in HUNT, its bus free since the last change. -/
def inHunt : State := cageIn fun c => { inState .live c with gate := { c.gate with relay := .hunt, stallUse := .busFree } }
/-- The data byte by treatment, at the 256th and the 257th byte of a capture, after a refused byte, and in HUNT. -/
theorem witness_WriteByteByTreatment :
    let with' := fun (t : Treatment) (n : Nat) => { hand t .data (some 130) with data := List.replicate n 0 }
    (∀ p ∈ [(Treatment.intercept, 2), (.refuse, 0), (.relay, 0), (.relayCapture, 255), (.relayCapture, 256)],
      (handIn .live .relaying (with' p.1 p.2)).takes 3 (with' p.1 p.2) .data ∧ (with' p.1 p.2).reads = false ∧
      (with' p.1 p.2).treatment = p.1 ∧ (with' p.1 p.2).data.length = p.2) ∧
    ({ with' .relay 0 with toModule := false } : InHand).toModule = false ∧
    (handIn .live .relaying { with' .relay 1 with nacked := true }).takes 3 { with' .relay 1 with nacked := true } .data ∧
    (inHunt.lineReset = false ∧ (inHunt.cage 3).gate.relay = .hunt) := by
  unfold State.takes
  decide +kernel
/-- The DEFER byte at the 16th and the 17th place, of a queued and of a detached entry, and of none; a channel that waits in
DRAIN, and one that does not. -/
theorem witness_DeferByteBounded :
    let e := fun n : Nat => ({ sheet := 5, offset := 200, data := List.replicate n 0, filling := true } : DeferEntry)
    let h := fun p : DeferPlace => { hand .defer .data (some 200) with place := p }
    let s := fun (p : DeferPlace) (q : List DeferEntry) => restoreIn (ctxOf .idle) fun c => { c with
      gate := { c.gate with relay := .holding, inHand := some (h p) }
      buffers := { c.buffers with queue := q } }
    (∀ n ∈ [15, 16], (s .queued [e n]).takes 3 (h .queued) .data ∧ (h .queued).treatment = .defer ∧
      (h .queued).offset = some 200 ∧ (h .queued).place = .queued ∧
      ((s .queued [e n]).cage 3).buffers.filling? = some (e n) ∧ (e n).data.length = n) ∧
    (∀ n ∈ [15, 16], (s (.detached (e n)) []).takes 3 (h (.detached (e n))) .data ∧
      (h (.detached (e n))).place = .detached (e n)) ∧
    ((s .closed []).takes 3 (h .closed) .data ∧ (h .closed).place = .closed) ∧
    (∀ w ∈ [ChanWork.awaitFill, .idle], (restoreIn (ctxOf w) id).channelOf 3 = some (2, ctxOf w) ∧ (ctxOf w).work = w) := by
  unfold State.takes
  decide +kernel
theorem witness_ReadBytesMoveCursors :
    let served := { readHand .readSlot with served := true }
    let slotIs := fun r : ReadSlot => (restoreIn (ctxOf .idle) fun c => { c with
      gate := { c.gate with relay := .holding, inHand := some served }, buffers := { c.buffers with slot := r } })
    (∀ t ∈ [Treatment.relay, .refuse, .readSlot],
      (handIn .live .relaying (readHand t)).takes 3 (readHand t) .data ∧ (readHand t).reads = true ∧
      (readHand t).toModule = true ∧ (readHand t).served = false ∧ (readHand t).treatment = t) ∧
    (∀ r ∈ [ReadSlot.ready { sheet := 0, pointer := 0 } [1], .free],
      (slotIs r).takes 3 served .data ∧ served.served = true ∧ ((slotIs r).cage 3).buffers.slot = r) ∧
    (∀ t ∈ [Treatment.relay, .readSlot], let ended := { readHand t with nacked := true }
      (handIn .live .relaying ended).takes 3 ended .data ∧ ended.nacked = true) ∧
    (inHunt.lineReset = false ∧ (inHunt.cage 3).gate.relay = .hunt) := by
  unfold State.takes
  decide +kernel
/-- A transaction of each treatment that the controller may end. -/
theorem witness_EndHandledByTreatment :
    let e : DeferEntry := { sheet := 16, offset := 130, data := [7], filling := true }
    let h := fun (t : Treatment) (o : Option Byte) (d : List Byte) => { hand t .data o with data := d }
    (∀ x ∈ [h .relay none [], h .relayCapture (some 130) [1], h .undecided none [],
        h .refuse none [], { h .refuse none [] with sheetSelect := some 9 }, h .intercept (some 122) [],
        h .intercept (some 122) [1, 2],
        { h .defer (some 130) [] with place := .queued }, { h .defer (some 130) [] with place := .closed },
        { h .defer (some 130) [] with place := .detached e },
        { h .defer (some 130) [] with place := .detached { e with data := [] } }, readHand .readSlot,
        { readHand .readSlot with served := true }],
      let s := (handIn .live .holding x).modBuffers 3 fun b => { b with queue := [e] }
      let c := s.cage 3
      s.lineReset = false ∧ s.resetLoading = false ∧ c.gate.relay ≠ .hunt ∧ c.gate.inHand = some x ∧
      c.gate.stretching = false ∧ c.gate.stuckForSeq = false ∧ c.buffers.filling? = some e) ∧ e.data ≠ [] ∧
    (inHunt.lineReset = false ∧ (inHunt.cage 3).gate.relay = .hunt) := by
  decide +kernel
/-- A stall at its limit of 40 in each treatment, the timer running or stopped by a removal; one below it, with no transaction,
or under a load; and HUNT at its limit and one below. -/
theorem witness_StallEntersHunt :
    let e : DeferEntry := { sheet := 16, offset := 130, data := [7], filling := true }
    let write := hand .defer .data (some 130)
    let supplied := readHand .relay
    (∀ h ∈ [supplied, { supplied with nacked := true }, hand .relayCapture .data (some 130), hand .undecided .address none,
        hand .intercept .data (some 122), hand .refuse .data none, { hand .refuse .data (some 130) with sheetSelect := some 9 },
        { write with place := .queued }, { write with place := .closed }, { write with place := .detached e },
        { write with place := .detached { e with data := [] } }, readHand .readSlot,
        { readHand .readSlot with served := true }],
      let s := (handIn .live .relaying h).modBuffers 3 fun b => { b with queue := [e] }
      let c := s.cage 3
      s.resetLoading = false ∧ c.gate.inHand = some h ∧ c.gate.stretching = false ∧ c.gate.stuckForSeq = false ∧
      c.gate.stallUse = .upstream ∧ c.gate.active.stall = max c.gate.stallElapsed 40 ∧ c.gate.relay = .relaying ∧
      c.buffers.filling? = some e) ∧
    (supplied.reads = true ∧ supplied.toModule = true ∧ supplied.offset = none ∧ supplied.nacked = false) ∧
    (let g := ((handIn .live .holding write).modGate 3 fun g => { g with stallUse := .stopped, stallElapsed := 40 }).cage 3
     g.gate.stallUse = .stopped ∧ g.gate.active.stall = max g.gate.stallElapsed 0) ∧
    (max ((handIn .live .relaying write).cage 3).gate.stallElapsed 39 <
        ((handIn .live .relaying write).cage 3).gate.active.stall ∧
      (calm.cage 3).gate.inHand = none ∧ State.reset.resetLoading = true ∧
      ((stuckGate false).cage 3).gate.stallUse = .stuck) ∧
    ((inHunt.cage 3).gate.relay = .hunt ∧ (inHunt.cage 3).gate.active.stall = 40 ∧ 39 < (inHunt.cage 3).gate.active.stall ∧
      (calm.cage 3).gate.relay ≠ .hunt) := by decide +kernel
/-- The check and the clear for a relay and for the sequencer; a hold in RELAYING and before it, at the detection time of 5 and
one below, in a cage that goes to FAULTED and in one that stays. -/
theorem witness_StuckBusAtGate :
    let seqCheck := fun (st : CageState) (clearing : Bool) => cageIn fun c => { inState st c with gate := { c.gate with
      stallUse := if clearing then .stopped else .stuck, clearing := clearing } }
    (∀ s ∈ [stuckGate false, seqCheck .probe false],
      (s.cage 3).gate.stallUse = .stuck ∧ (s.cage 3).gate.clearing = false) ∧
    (let c := (stuckGate true).cage 3
     c.gate.clearing = true ∧ c.slot = none ∧ c.seq.state = .held ∧
     c.gate.inHand = some { readHand .relay with stage := .downAddress } ∧ c.gate.stretching = true) ∧
    (∀ st ∈ [CageState.probe, .settle], let c := (seqCheck st true).cage 3
     c.gate.clearing = true ∧ c.slot = none ∧ c.seq.state = st ∧ c.gate.stretching = false) ∧
    (∀ st ∈ [CageState.live, .restore], let c := (handIn st .relaying (hand .relay .data none)).cage 3
     c.gate.inHand = some (hand .relay .data none) ∧ c.gate.clearing = false ∧ c.gate.relay = .relaying ∧ c.slot = none ∧
     c.seq.state = st ∧ c.gate.stallUse ≠ .hold ∧ c.gate.active.stuckDetect = 5 ∧ 4 < c.gate.active.stuckDetect) ∧
    (let c := ((handIn .live .holding (hand .relayCapture .downOffset (some 130))).modGate 3 fun g =>
       { g with stallUse := .hold, stallElapsed := 5 }).cage 3
     c.gate.stretching = true ∧ c.gate.stallUse = .hold ∧ c.gate.relay ≠ .relaying ∧
     c.gate.active.stuckDetect = max c.gate.stallElapsed 0) := by decide +kernel
theorem witness_StuckBusAtChannel :
    let x := fun w : StuckWait => { ctxOf (.write (rec16 132 [0x11] 0 .plain)) with stuck := w }
    ∀ w ∈ [StuckWait.waiting, .clearing],
      let s := restoreIn (x w) id
      s.channelOf 3 = some (2, x w) ∧ (s.cage 3).gate.stallUse ≠ .stuck ∧ (s.cage 3).gate.clearing = false ∧
      (x w).stuck = w ∧ (s.cage 3).buffers.queue = [] ∧ (s.cage 3).slot = none := by decide +kernel
theorem witness_ReseatRestartsModule :
    (calm.inService = true ∧ (calm.cage 3).seq.state = .empty ∧ (calm.cage 3).seq.ret = none) ∧
    (let s := returning .inHand fun c => { c with slot := some { code := 4, arg := none } }
     s.inService = true ∧ (s.cage 3).seq.state = .powerup ∧ (s.cage 3).seq.ret.isSome = true ∧
     (s.cage 3).slot = some { code := 4, arg := none }) := by decide +kernel
/-- HELD and LIVE with a usable journal, empty and with one record, and with a SPILLED one. -/
theorem witness_ResumeAndRestoreNow :
    let journalIs := fun (st : CageState) (j : JournalState) (n : Nat) => (cageIn fun c => { inState st c with
      journal := { c.journal with state := j, opened := List.range n } })
    ∀ st ∈ [CageState.held, .live], ∀ j ∈ [JournalState.opened, .frozen, .spilled], ∀ n ∈ [0, 1],
      let s := journalIs st j n
      s.inService = true ∧ (s.cage 3).seq.state = st ∧ (s.cage 3).seq.ret = none ∧ (s.cage 3).journal.state = j ∧
      (s.cage 3).journal.slots.length = n := by decide +kernel
theorem witness_ForgetEmptiesJournal :
    (∀ st ∈ [CageState.empty, .live, .queued, .powerup, .held, .staged, .faulted],
      let s := cageIn (inState st)
      s.inService = true ∧ (s.cage 3).seq.state = st ∧ (s.cage 3).seq.ret = none) ∧
    SlotMem.wf (holding 64 [rec16 130 [1] 0 .plain]).store.slots = true ∧
    0 ∈ ((holding 64 [rec16 130 [1] 0 .plain]).cage 3).journal.slots := by decide +kernel
theorem witness_JournalDirectives :
    (∀ j ∈ [JournalState.opened, .frozen, .spilled],
      let s := cageIn fun c => { inState .live c with journal := { c.journal with state := j } }
      s.inService = true ∧ (s.cage 3).seq.state ≠ .restore ∧ (s.cage 3).seq.ret = none ∧ (s.cage 3).journal.state = j) ∧
    bitCount 0x80 = 1 ∧ bitCount 0xFF % 2 = 0 ∧ bitCount 0 % 2 = 0 := by decide +kernel
theorem witness_ReportAndPartDirectives :
    calm.log.first = none ∧ (after (exec (.bootTimeout 3 none) (cageIn (inPhase .probe .boot)))).log.first.isSome = true ∧
    calm.inService = true ∧ calm.loader.load = none ∧ (calm.cage 3).seq.state ≠ .restore ∧ (calm.cage 3).seq.ret = none ∧
    (let s := { calm with loader := { calm.loader with load := some .reload } }
     s.inService = true ∧ s.loader.load ≠ none) := by decide +kernel
/-- The codes on both sides of the table, an odd mask of three bits, and cages in RESTORE and in a cursor return with the slot
empty and full. -/
theorem witness_DirectivesWaitInSlot :
    (calm.inService = true ∧ 0x0B < (0x0C : Byte).toNat ∧ ¬0x0B < (0x0B : Byte).toNat) ∧
    (bitCount 0x07 % 2 = 1 ∧ 3 ≤ bitCount 0x07 ∧ bitCount 0x01 = 1) ∧
    (let s := restoreIn (ctxOf .idle) id
     s.inService = true ∧ (s.cage 3).seq.state = .restore ∧ (s.cage 3).slot = none) ∧
    (let s := returning .inHand fun c => { c with slot := some { code := 4, arg := none } }
     s.inService = true ∧ (s.cage 3).seq.ret.isSome = true ∧ (s.cage 3).slot = some { code := 4, arg := none }) := by
  decide +kernel
/-- The notice queue empty, with one frame, and with 31 and 32, with a lost count of 0 and above. -/
theorem witness_NoticeLeavesQueue :
    let f := frameOf .log1 0 0 0 0 0 0
    calm.notice.queue = [] ∧
    (let s := { calm with notice := { queue := [f], lost := 0 } }; s.notice.queue = f :: [] ∧ s.notice.lost = 0) ∧
    (let s := { calm with notice := { queue := [f], lost := 1 } }; s.notice.queue = f :: [] ∧ 0 < s.notice.lost) ∧
    (List.replicate 31 f).length < 32 ∧ 32 ≤ (List.replicate 32 f).length := by decide +kernel
theorem witness_AdvanceStaysInWindow :
    (254 : Byte).toNat < 255 ∧ 128 ≤ (128 : Byte).toNat ∧ 128 ≤ (255 : Byte).toNat := by decide
/-- A capture that passes its bounds, at a quota of exactly its count, and one that exceeds the quota by 1. -/
theorem witness_CaptureCommitsOrSpills :
    let rs := [rec16 130 [0, 1, 2, 3, 4, 5, 6, 7] 0 .plain]
    let ok := fun quota : Nat =>
      let s := holding quota rs
      let j := (s.cage 3).journal
      let w := (j.work s.store.slots).enterAll (resolve s.profile.rules 16 133 [8, 9])
      j.state = .opened ∧ 0 < j.quota ∧ resolve s.profile.rules 16 133 [8, 9] ≠ [] ∧ SlotMem.wf s.store.slots = true ∧
      j.slots.Nodup ∧ (∀ i ∈ j.slots, (SlotMem.read s.store.slots i).used = true ∧ s.clean i) ∧ w.count = 3 ∧
      w.spill? j.quota j.count s.store.freeCount = if quota = 3 then none else some .quota
    ok 3 ∧ ok 2 := by
  unfold State.clean
  decide +kernel
/-- The slot that coalescing reads, second of two that are read, with a flaw of one bit and with one of two. -/
theorem witness_CaptureCommitsOrSpills_reads :
    let rs := [rec16 130 [0, 1, 2] 0 .plain, rec16 135 [5, 6, 7] 0 .plain]
    let s := fun e : Byte => flawed (holding 64 rs) 1 e
    let j := fun e : Byte => ((s e).cage 3).journal
    (∀ e ∈ [(0x01 : Byte), 0x03],
      (j e).state = .opened ∧ 0 < (j e).quota ∧ resolve (s e).profile.rules 16 132 [8, 9, 9, 9] ≠ [] ∧
      SlotMem.wf (s e).store.slots = true ∧
      (((j e).work (s e).store.slots).enterAll (resolve (s e).profile.rules 16 132 [8, 9, 9, 9])).reads = [0] ++ 1 :: [] ∧
      (∀ m ∈ [0], (s e).clean m)) ∧
    (s 0x01).correctable 1 ∧ (s 0x03).uncorrectable 1 := by
  refine ⟨?_, correctable_of _ _ (by decide +kernel), uncorrectable_of _ _ (by decide +kernel)⟩
  unfold State.clean
  decide +kernel
/-- A pending mask, and a capture that rewrites a record and one that only appends. -/
theorem witness_CaptureCommitsOrSpills_mask :
    let s := (holding 64 [rec16 130 [0, 1, 2] 0 .plain]).modJournal 3 fun j => { j with mask := some 0x01 }
    let records := fun offset : Byte => (((s.cage 3).journal.work s.store.slots).enterAll
      (resolve s.profile.rules 16 offset [8, 9])).records
    (s.cage 3).journal.mask = some 0x01 ∧ s.clean 0 ∧
    (records 132).map (fun x => (x.changed, x.slot)) = [(true, some 0), (true, none)] ∧
    (records 140).map (fun x => (x.changed, x.slot)) = [(false, some 0), (true, none)] := by
  unfold State.clean
  decide +kernel
theorem witness_CommandsKeepToTheirCage :
    Instr.cage? (.freeze 3 none) = some 3 ∧
    ∃ t : State, exec (.freeze 3 none) (cageIn (inState .live)) = .next t := ⟨rfl, _, rfl⟩
theorem witness_StepKeepsStoreAndQueues :
    SlotMem.wf (holding 64 [rec16 130 [1] 0 .plain]).store.slots = true ∧ calm.notice.bounded ∧ calm.log.bounded := by
  unfold NoticePort.bounded FaultLog.bounded
  decide +kernel
/-- A charge above the budget that stands alone, and two that fit. -/
theorem witness_StepKeepsPowerRule :
    ({ calm.power with budget := 5, charges := [⟨3, 9⟩] } : Power).sound ∧
    ({ calm.power with budget := 5, charges := [⟨3, 2⟩, ⟨4, 3⟩] } : Power).sound ∧
    ∃ t : State, step calm = .next t := by
  refine ⟨Or.inr (by decide +kernel), Or.inl (by decide +kernel), _, rfl⟩
theorem witness_StepKeepsOutputLevels :
    let s := cageIn fun c => { inState .live c with
      mint := true, seq := { c.seq with state := .live, mrst := false, mlpw := false, pint := true } }
    (s.cage 3).outputsSound ∧ (calm.cage 4).outputsSound := by
  unfold Cage.outputsSound
  decide +kernel

end Sys2Proof.Machine.Tests
end

section
/-! SUPPORT. The pointer's advance step and the window it stays in (R2), and the proof of O54. -/

namespace Sys2Proof.Machine

theorem advance_toNat_below {p : Byte} (h : p.toNat < 255) : (advance p).toNat = p.toNat + 1 := by
  have hp : p ≠ 255 := by rintro rfl; exact absurd h (by decide)
  rw [advance, if_neg hp]
  bv_omega

/-- In the window one advance step is one step round the 128 positions from 128 on (R2). -/
theorem advance_toNat_window {p : Byte} (h : 128 ≤ p.toNat) :
    (advance p).toNat = 128 + (p.toNat - 128 + 1) % 128 := by
  by_cases hp : p.toNat < 255
  · rw [advance_toNat_below hp]
    omega
  · have top : p = 255 := by bv_omega
    subst top
    rfl

/-- The last of `n + 1` advance steps. -/
theorem advanceN_succ_last (n : Nat) : ∀ p : Byte, advanceN p (n + 1) = advance (advanceN p n) := by
  induction n with
  | zero => exact fun _ => rfl
  | succ n ih => exact fun p => ih (advance p)

/-- In the window `n` advance steps are `n` steps round its 128 positions (R2, R8). -/
theorem advanceN_toNat_window {p : Byte} (h : 128 ≤ p.toNat) (n : Nat) :
    (advanceN p n).toNat = 128 + (p.toNat - 128 + n) % 128 := by
  induction n with
  | zero =>
    have := p.isLt
    rw [advanceN]
    omega
  | succ n ih =>
    rw [advanceN_succ_last, advance_toNat_window (by omega), ih]
    omega

/-- The number of advance steps from one window position to another is the distance between them round the window. -/
theorem advanceN_eq_iff_window {p q : Byte} (hp : 128 ≤ p.toNat) (hq : 128 ≤ q.toNat) (n : Nat) :
    advanceN p n = q ↔ n % 128 = (q.toNat + 128 - p.toNat) % 128 := by
  have hp' := p.isLt
  have hq' := q.isLt
  rw [← BitVec.toNat_inj, advanceN_toNat_window hp]
  omega

/-- Settles O54: in the window the pointer counts modulo 128, so it stays there and meets every position once a turn. -/
theorem advanceStaysInWindow : Obligations.AdvanceStaysInWindow := by
  unfold Obligations.AdvanceStaysInWindow
  refine ⟨fun _ _ _ => rfl, fun _ _ => rfl, fun p n => ⟨rfl, advanceN_succ_last n p⟩,
    fun p => ⟨advance_toNat_below, fun h => if_pos h⟩, fun p n h => ?stays, fun p h => ?turn, fun p q hp hq => ?covers⟩
  case stays =>
    rw [advanceN_toNat_window h]
    omega
  case turn =>
    rw [advanceN_eq_iff_window h h]
    omega
  case covers =>
    have hp' := p.isLt
    have hq' := q.isLt
    refine ⟨(q.toNat + 128 - p.toNat) % 128, by omega, (advanceN_eq_iff_window hp hq _).2 (by omega), fun m hm h => ?_⟩
    have := (advanceN_eq_iff_window hp hq m).1 h
    omega

end Sys2Proof.Machine
end

section
/-! SUPPORT. The state after reset, block by block, and the proof of O4. -/

namespace Sys2Proof.Machine

@[simp] theorem State.powerOn_cage (pins : Vector (Bool × Bool) 32) (k : CageId) :
    (State.powerOn pins).cage k = Cage.powerOn pins[k].1 pins[k].2 := by
  simp [State.powerOn, State.cage]

theorem State.powerOn_channel (pins : Vector (Bool × Bool) 32) (c : Fin 4) :
    (State.powerOn pins).channels[c] = Channel.fresh TimingSet.default := by
  simp [State.powerOn]

/-- A cage after power-on meets the values of R10, R48, R50, R81, R140, R162 and R178, whatever its pins. -/
theorem Cage.powerOn_poweredOn (mpres mint : Bool) : (Cage.powerOn mpres mint).poweredOn := by
  unfold Cage.poweredOn
  exact ⟨⟨rfl, rfl, rfl, rfl, rfl, rfl, rfl, rfl, rfl, rfl, rfl, rfl, rfl, rfl⟩, ⟨rfl, rfl⟩, ⟨rfl, rfl, rfl, rfl, rfl⟩,
    ⟨rfl, rfl, rfl, rfl, rfl, rfl⟩, ⟨rfl, rfl, rfl, rfl⟩, rfl⟩

/-- The part after power-on meets the power-on values, whatever its pins. -/
theorem State.powerOn_poweredOn (pins : Vector (Bool × Bool) 32) : (State.powerOn pins).poweredOn := by
  unfold State.poweredOn
  refine ⟨fun k => ?cages, fun c => ?channels, rfl, ⟨rfl, rfl, rfl⟩, fun _ => rfl, rfl, ⟨rfl, rfl, rfl, rfl, rfl⟩,
    ⟨rfl, rfl⟩, rfl⟩
  case cages =>
    rw [State.powerOn_cage]
    exact Cage.powerOn_poweredOn _ _
  case channels =>
    rw [State.powerOn_channel]
    exact ⟨rfl, rfl⟩

/-- Settles O4: the state after reset is the power-on state with every pin low. -/
theorem resetIsPoweredOn : Obligations.ResetIsPoweredOn := by
  unfold Obligations.ResetIsPoweredOn
  exact ⟨State.powerOn_poweredOn _, rfl, rfl, rfl⟩

end Sys2Proof.Machine
end

section
/-! SUPPORT. The transactions of a sequencer's cursor return, one lemma per answer (R16, R88), and the proof of O26. -/

namespace Sys2Proof.Machine

/-! ## One answer to a transaction of a cursor return -/

theorem Access.next_ret_select {goal : Cursor} {m : ModCursor} (h : m.sheet ≠ some goal.sheet) :
    (Access.ret goal).next m false = .select goal.sheet := by
  simp [Access.next, Access.sheet?, h]

theorem Access.next_ret_pointer {goal : Cursor} {m : ModCursor} (h : m.sheet = some goal.sheet) :
    (Access.ret goal).next m false = .pointer goal.pointer := by
  simp [Access.next, Access.sheet?, Access.body, h]

theorem Access.run_ret_select_taken {goal : Cursor} {m : ModCursor} (h : m.sheet ≠ some goal.sheet) (bs : List Byte) :
    (Access.ret goal).run m false false [.taken bs] =
      { modc := { sheet := some goal.sheet, pointer := some 126 }, ended := .more false, rest := [], progress := true } := by
  rw [Access.run, Access.next_ret_select h]
  rfl

theorem Access.run_ret_select_refused {goal : Cursor} {m : ModCursor} (h : m.sheet ≠ some goal.sheet) (n : Nat) :
    (Access.ret goal).run m false false [.refused n] =
      { modc := m.wrote 125 [], ended := .refused (.select goal.sheet) 0, rest := [], progress := false } := by
  simp [Access.run, Access.next_ret_select h, ModCursor.account]

theorem Access.run_ret_pointer_taken {goal : Cursor} {m : ModCursor} (h : m.sheet = some goal.sheet) (bs : List Byte) :
    (Access.ret goal).run m false false [.taken bs] =
      { modc := { m with pointer := some goal.pointer }, ended := .done [], rest := [], progress := false } := by
  simp [Access.run, Access.next_ret_pointer h, ModCursor.account, Access.endsWith]

theorem Access.run_busy (a : Access) (m : ModCursor) (pointed progress : Bool) (rs : List Response) :
    a.run m pointed progress (.busy :: rs) = { modc := m, ended := .busy, rest := rs, progress := progress } := by
  simp [Access.run, ModCursor.account]

theorem Access.run_held (a : Access) (m : ModCursor) (pointed progress : Bool) (rs : List Response) :
    a.run m pointed progress (.held :: rs) = { modc := m, ended := .held pointed, rest := rs, progress := progress } := by
  simp [Access.run]

/-! ## The command -/

/-- The answer to the transaction in hand of a cursor return goes to the sequencer (R16). -/
theorem exec_cursorReturnTransactionEnd_inHand {s : State} {k : CageId} {r : SeqReturn} (hret : (s.cage k).seq.ret = some r)
    (hcarried : (s.cage k).seq.carried = none) (hretry : r.retry = .inHand) (hstarted : (s.cage k).seq.started = true)
    (hstuck : (s.cage k).gate.stuckForSeq = false) (answer : Response) :
    exec (.cursorReturnTransactionEnd k answer) s = .next (s.seqReturnEnd k r answer) := by
  simp [exec, execCursorReturnTransactionEnd, hret, hcarried, hretry, hstarted, hstuck]

/-- The answer to a transaction carried over comes with the end of the return's transaction (log entry 10). -/
theorem exec_cursorReturnTransactionEnd_carried {s : State} {k : CageId} {r : SeqReturn} {tr : Trans}
    (hret : (s.cage k).seq.ret = some r) (hcarried : (s.cage k).seq.carried = some tr) (answer : Response) :
    exec (.cursorReturnTransactionEnd k answer) s = .next (s.accountCarried k tr answer) := by
  simp [exec, execCursorReturnTransactionEnd, hret, hcarried]

/-- With no attempt in hand the answer to a transaction carried over comes with the end of an attempt (log entry 10). -/
theorem exec_probeAttemptNotYet_carried {s : State} {k : CageId} {tr : Trans} (hattempt : (s.cage k).seq.attempt = none)
    (hcarried : (s.cage k).seq.carried = some tr) (answer : Response) (rest : List Response) :
    exec (.probeAttemptNotYet k (answer :: rest)) s = .next (s.accountCarried k tr answer) := by
  simp [exec, execProbeAttemptNotYet, State.attemptEnd, hattempt, hcarried]

/-! ## A return that goes on -/

/-- A sheet select TAKEN begins step 2, its schedule counted from 0 (R16, R88). -/
theorem State.seqReturnEnd_selected {s : State} {k : CageId} {r : SeqReturn}
    (h : (s.cage k).gate.modc.sheet ≠ some r.goal.sheet) (bs : List Byte) :
    s.seqReturnEnd k r (.taken bs) = s.modCage k fun c => { c with
      gate := { c.gate with modc := { sheet := some r.goal.sheet, pointer := some 126 } }
      timer := { c.timer with elapsed := 0 }
      seq := { c.seq with started := !c.gate.stallBusy } } := by
  unfold State.seqReturnEnd
  simp only [Access.run_ret_select_taken h]
  exact State.modCage_modCage s k _ _

/-- A BUSY answer leaves the return to its schedule (R88). -/
theorem State.seqReturnEnd_busy (s : State) (k : CageId) (r : SeqReturn) :
    s.seqReturnEnd k r .busy = s.modCage k fun c => { c with
      seq := { c.seq with
        started := false
        ret := c.seq.ret.map fun r =>
          { r with retry := Retry.afterBusy (s.cage k).seq.active (s.cage k).timer.elapsed } } } := by
  unfold State.seqReturnEnd
  simp only [Access.run_busy]
  unfold State.modReturn State.modGate State.modSeq
  rw [State.modCage_modCage, State.modCage_modCage]
  exact State.modCage_congr s k _ _ rfl

/-- A look at CDA that sees the line low leaves the transaction to begin and starts the check where it can (R157). -/
theorem State.seqReturnEnd_held (s : State) (k : CageId) (r : SeqReturn) :
    s.seqReturnEnd k r .held = s.seqHeld k := by
  unfold State.seqReturnEnd
  simp only [Access.run_held]
  rw [State.modGate, State.modCage_id s k _ rfl]

/-- Settles O26, by the answer; a transaction carried over takes its answer by `State.accountCarried_return`. -/
theorem returnTransactionsGoOn : Obligations.ReturnTransactionsGoOn := by
  unfold Obligations.ReturnTransactionsGoOn
  intro k r s c hret
  refine ⟨fun hcarried hretry hstarted hstuck => ?inHand, fun tr answer hcarried => ?carried⟩
  case inHand =>
    have run := exec_cursorReturnTransactionEnd_inHand hret hcarried hretry hstarted hstuck
    refine ⟨fun bs hsheet => ⟨_, run _, ?selected⟩, ⟨_, run _, ?busy⟩, ⟨_, run _, ?held⟩⟩
    case selected =>
      rw [State.seqReturnEnd_selected hsheet]
      exact cageBecomes_modCage rfl
    case busy =>
      rw [State.seqReturnEnd_busy]
      refine cageBecomes_modCage ?_
      rw [hret]
      rfl
    case held =>
      rw [State.seqReturnEnd_held]
      exact cageBecomes_modCage rfl
  case carried =>
    have accounted := s.accountCarried_return k tr answer r hret
    exact ⟨⟨_, exec_cursorReturnTransactionEnd_carried hret hcarried answer, accounted⟩,
      fun rest hattempt => ⟨_, exec_probeAttemptNotYet_carried hattempt hcarried answer rest, accounted⟩⟩

end Sys2Proof.Machine
end

section
/-! SUPPORT. The entry into the state that a sequencer's cursor return led to (R63), and the proof of O27. -/

namespace Sys2Proof.Machine

/-! ## What the entry makes of the cage and of the notices -/

/-- The state a cursor return leads to. -/
def ReturnTarget.state : ReturnTarget → CageState
  | .held => .held
  | .live => .live
  | .faulted => .faulted

/-- The cage record at the entry: into LIVE the flag is cleared and the identity record replaced (R45, R47). -/
def ReturnTarget.journal (t : ReturnTarget) (q : Seq) (j : CageRecord) : CageRecord :=
  match t with
  | .live => { j with incomplete := false, identity := liveIdentity q.outcome j.identity q.lastIdentity }
  | _ => j

/-- A cage whose cursor return has ended, in the state it led to (R50–R53, R63, R81). -/
def Cage.returned (t : ReturnTarget) (c : Cage) : Cage :=
  { c with
    timer := { c.timer with use := .idle }
    journal := t.journal c.seq c.journal
    seq := { c.seq with state := t.state, adoptPending := false, decision := false, ppres := true, pint := c.mint,
                        attempt := none, due := .none, ret := none, started := false } }

/-- The notices after the entry's own (R64, R70, R71). -/
def State.returnNotice (s : State) (k : CageId) : ReturnTarget → NoticePort
  | .held => s.notice.submit (s.heldFrame k)
  | .live => s.notice.submit (s.liveFrame k false 0 0)
  | .faulted => s.notice

theorem liveIdentity_eq (o : IdOutcome) (record last : Option (List Byte)) :
    liveIdentity o record last = if o = .same ∧ record.isSome then record else last := by
  cases o <;> cases record <;> rfl

/-- The step of a cage into a state that relays, its timer stopped (R51–R53, R81). -/
theorem State.enter_idleTimer_relays (s : State) (k : CageId) {st : CageState} (h : st.relays = true) :
    (s.idleTimer k).enter k st = s.modCage k fun c => { c with
      timer := { c.timer with use := .idle }
      seq := { c.seq with state := st, adoptPending := false, decision := false, ppres := true, pint := c.mint,
                          attempt := none, due := .none, ret := none, started := false } } := by
  unfold State.enter State.idleTimer
  rw [State.modCage_modCage]
  exact State.modCage_congr s k _ _ (by simp only [Seq.enter_relays _ _ _ _ h])

/-- The part at the end of a cursor return of cage `k`, before a directive that waited acts. -/
def State.returned (s : State) (k : CageId) (t : ReturnTarget) : State :=
  ({ s with notice := s.returnNotice k t } : State).modCage k (Cage.returned t)

/-- Everything the end of a cursor return does: the cage enters with its notice, then a directive that waited acts (R63). -/
theorem State.enterTarget_eq (s : State) (k : CageId) (t : ReturnTarget) :
    s.enterTarget k t = (s.returned k t).takeSlot k := by
  cases t with
  | held =>
    simp only [State.enterTarget, State.enter_idleTimer_relays s k (st := .held) rfl, State.heldFrame,
      State.cage_modCage_same]
    rfl
  | live =>
    simp only [State.enterTarget, State.toLive, State.enter_idleTimer_relays s k (st := .live) rfl,
      State.modCage_modCage, State.liveFrame, State.cage_modCage_same]
    rfl
  | faulted =>
    simp only [State.enterTarget, State.enter_idleTimer_relays s k (st := .faulted) rfl]
    rfl

theorem State.returned_slot (s : State) (k : CageId) (t : ReturnTarget) :
    ((s.returned k t).cage k).slot = (s.cage k).slot := by
  rw [State.returned, State.cage_modCage_same]
  rfl

/-! ## The ends of a return -/

/-- Sets the module cursor and the value of the phase timer of a cage. -/
def Cage.atEnd (m : ModCursor) (elapsed : Nat) (c : Cage) : Cage :=
  { c with gate := { c.gate with modc := m }, timer := { c.timer with elapsed := elapsed } }

/-- Step 2 TAKEN ends the return COMPLETE, the module's pointer at the goal (R16). -/
theorem State.seqReturnEnd_complete {s : State} {k : CageId} {r : SeqReturn}
    (h : (s.cage k).gate.modc.sheet = some r.goal.sheet) (bs : List Byte) :
    s.seqReturnEnd k r (.taken bs) =
      (s.modCage k (Cage.atEnd { (s.cage k).gate.modc with pointer := some r.goal.pointer }
        (s.cage k).timer.elapsed)).enterTarget k r.target := by
  unfold State.seqReturnEnd
  simp only [Access.run_ret_pointer_taken h]
  exact congrArg (State.enterTarget · k r.target) (State.modCage_congr s k _ _ rfl)

/-- The byte of the sheet select refused ends the return FAILED (R16, R17). -/
theorem State.seqReturnEnd_failed {s : State} {k : CageId} {r : SeqReturn}
    (h : (s.cage k).gate.modc.sheet ≠ some r.goal.sheet) (n : Nat) :
    s.seqReturnEnd k r (.refused n) =
      (s.modCage k (Cage.atEnd ((s.cage k).gate.modc.unestablished (s.cage k).gate.ctrl)
        (s.cage k).timer.elapsed)).enterTarget k r.target := by
  unfold State.seqReturnEnd
  simp only [Access.run_ret_select_refused h]
  unfold State.returnUnmade State.modGate
  rw [State.modCage_modCage]
  exact congrArg (State.enterTarget · k r.target) (State.modCage_congr s k _ _ rfl)

/-- The write-busy limit ends the return SKIPPED, the timer at least there (R17, R88; log entry 3). -/
theorem exec_writeBusyLimit_return {s : State} {k : CageId} {r : SeqReturn} (hret : (s.cage k).seq.ret = some r)
    (hretry : r.retry = .limit) :
    exec (.writeBusyLimit k) s = .next ((s.modCage k (Cage.atEnd
      ((s.cage k).gate.modc.unestablished (s.cage k).gate.ctrl)
      (max (s.cage k).timer.elapsed (s.cage k).seq.active.writeBusy))).enterTarget k r.target) := by
  simp only [exec, execWriteBusyLimit, hret, hretry]
  unfold State.returnUnmade State.modGate State.reach
  rw [State.modCage_modCage]
  exact congrArg (fun u : State => (Host.Outcome.next (u.enterTarget k r.target) : Result)) (State.modCage_congr s k _ _ rfl)

/-- The entry after a change of the cage alone is one change of the cage, and the notice. -/
theorem State.returned_modCage (s : State) (k : CageId) (t : ReturnTarget) (f : Cage → Cage) :
    (s.modCage k f).returned k t =
      ({ s with notice := (s.modCage k f).returnNotice k t } : State).modCage k fun c => (f c).returned t :=
  State.modCage_modCage { s with notice := (s.modCage k f).returnNotice k t } k f (Cage.returned t)

/-- Settles O27: COMPLETE, FAILED and SKIPPED enter by the one lemma `State.enterTarget_eq`. -/
theorem returnEntersTarget : Obligations.ReturnEntersTarget := by
  unfold Obligations.ReturnEntersTarget
  intro k r s c hret st times journal enters lost
  have entered : ∀ (m : ModCursor) (elapsed : Nat),
      enters m elapsed ((s.modCage k (Cage.atEnd m elapsed)).enterTarget k r.target) := by
    intro m elapsed
    rw [State.enterTarget_eq]
    refine ⟨(s.modCage k (Cage.atEnd m elapsed)).returned k r.target, ?frame, ?waiting⟩
    case waiting =>
      rw [State.takeSlot, State.returned_slot, State.cage_modCage_same]
      rfl
    case frame =>
      rw [State.returned_modCage]
      obtain ⟨target, goal, retry⟩ := r
      cases target with
      | held =>
        rw [State.returnNotice, State.heldFrame, State.cage_modCage_same]
        exact cageBecomes_modCage rfl
      | live =>
        rw [State.returnNotice, State.liveFrame, State.cage_modCage_same]
        refine cageBecomes_modCage ?_
        rw [Cage.returned, ReturnTarget.journal, liveIdentity_eq]
        rfl
      | faulted => exact cageBecomes_modCage rfl
  refine ⟨fun hcarried hretry hstarted hstuck => ?answered, fun hretry => ?skipped⟩
  case answered =>
    have run := exec_cursorReturnTransactionEnd_inHand hret hcarried hretry hstarted hstuck
    refine ⟨fun bs hsheet => ⟨_, run _, ?complete⟩, fun n hsheet => ⟨_, run _, ?failed⟩⟩
    case complete =>
      rw [State.seqReturnEnd_complete hsheet]
      exact entered _ _
    case failed =>
      rw [State.seqReturnEnd_failed hsheet]
      exact entered _ _
  case skipped => exact ⟨_, exec_writeBusyLimit_return hret hretry, entered _ _⟩

end Sys2Proof.Machine
end

section
/-! SUPPORT. What every command addressed to a cage keeps, one lemma per command by its branches, and the proof of O56. -/

namespace Sys2Proof.Machine

/-- A meaning for cage `k` that answers a next state, which keeps what an operation for that cage keeps. -/
def KeepsNext (k : CageId) (s : State) (r : Result) : Prop := ∃ t : State, r = .next t ∧ Keeps k s t

theorem Keeps.next {k : CageId} {s t : State} (h : Keeps k s t) : KeepsNext k s (.next t) := ⟨t, rfl, h⟩

/-- A command that passes over the event keeps everything. -/
theorem KeepsNext.same (k : CageId) (s : State) : KeepsNext k s (.next s) := (Keeps.refl k s).next

/-! ## Presence, interrupt and phases -/

theorem execPresenceAsserted_keeps (k : CageId) (s : State) : KeepsNext k s (execPresenceAsserted k s) := by
  have level : Keeps k s (s.modCage k fun c => { c with mpres := true }) := (Keeps.refl k s).quiet rfl
  unfold execPresenceAsserted
  dsimp only
  split
  · exact level.toSettle.next
  · exact level.next

theorem execRemoval_keeps (k : CageId) (s : State) : KeepsNext k s (execRemoval k s) := by
  have level : Keeps k s (s.modCage k fun c => { c with mpres := false }) := (Keeps.refl k s).quiet rfl
  unfold execRemoval
  dsimp only
  split
  · exact .same k s
  · split
    · exact (level.modSeq rfl).next
    · split
      · exact level.enter.next
      · split
        · exact level.next
        · exact level.removeFrom.next

/-- PINT_n follows MINT_n only where the state relays, and is released while RESET_n is asserted (R53, R77). -/
theorem Cage.outputsSound_mint {c : Cage} (h : c.outputsSound) (released asserted : Bool) :
    ({ c with mint := asserted, seq := { c.seq with pint := released && pintFor c.seq.state asserted } } :
      Cage).outputsSound := by
  obtain ⟨levels, pending, -⟩ := h
  exact ⟨levels, pending, by simp [pintFor]⟩

theorem execMintChange_keeps (k : CageId) (asserted : Bool) (s : State) :
    KeepsNext k s (execMintChange k asserted s) :=
  ((Keeps.refl k s).modCage fun h => Cage.outputsSound_mint h (!s.lineReset) asserted).next

theorem execSettleCompareB_keeps (k : CageId) (s : State) : KeepsNext k s (execSettleCompareB k s) := by
  unfold execSettleCompareB
  split
  · exact Keeps.next (((Keeps.refl k s).quiet rfl).enter.startPhase.submit)
  · exact .same k s

theorem execPhaseCompareA_keeps (k : CageId) (s : State) : KeepsNext k s (execPhaseCompareA k s) := by
  unfold execPhaseCompareA
  dsimp only
  split
  · exact (Keeps.refl k s).reach.beginAttempt.next
  · exact .same k s

theorem execAttemptDue_keeps (k : CageId) (s : State) : KeepsNext k s (execAttemptDue k s) := by
  unfold execAttemptDue
  dsimp only
  split
  · split
    · exact (Keeps.refl k s).reach.beginAttempt.next
    · exact .same k s
  · exact .same k s

/-! ## Attempts, decisions and timeouts -/

theorem execProbeAttemptNotYet_keeps (k : CageId) (rs : List Response) (s : State) :
    KeepsNext k s (execProbeAttemptNotYet k rs s) := by
  unfold execProbeAttemptNotYet
  split
  · exact (Keeps.refl k s).attemptNotYet.next
  · exact (Keeps.refl k s).attemptMore.next
  · exact (Keeps.refl k s).attemptMore.seqHeld.next
  · exact .same k s
  · split
    · exact (Keeps.refl k s).accountCarried.next
    · exact .same k s

theorem execProbeStepComplete_keeps (k : CageId) (rs : List Response) (s : State) :
    KeepsNext k s (execProbeStepComplete k rs s) := by
  unfold execProbeStepComplete
  split
  · split
    · dsimp only
      split
      · exact (Keeps.refl k s).probed.toQueued.next
      · exact (Keeps.refl k s).probed.startReturn.next
    · exact .same k s
  · exact .same k s

theorem execProbeHMatch_keeps (k : CageId) (rs : List Response) (s : State) :
    KeepsNext k s (execProbeHMatch k rs s) := by
  unfold execProbeHMatch
  split
  · split
    · rename_i m a _
      have released := ((Keeps.refl k s).quiet (f := fun c =>
        { c with gate := { c.gate with modc := m }, seq := { c.seq with powerTime := a.began } }) rfl).releaseDraw
      dsimp only
      split
      · exact released.toStaged.next
      · exact released.startReturn.next
    · exact .same k s
  · exact .same k s

theorem execBootTimeout_keeps (k : CageId) (r : Option Response) (s : State) :
    KeepsNext k s (execBootTimeout k r s) := by
  unfold execBootTimeout
  split
  · exact (Keeps.refl k s).logFault.stopAttempt.startReturn.next
  · exact .same k s

/-- MLPW asserted again leaves the output levels sound (R51, R67). -/
theorem Cage.outputsSound_mlpw {c : Cage} (h : c.outputsSound) :
    ({ c with seq := { c.seq with mlpw := true } } : Cage).outputsSound := by
  obtain ⟨levels, pending, interrupt⟩ := h
  exact ⟨fun st notPending => ⟨(levels st notPending).1, rfl⟩, pending, interrupt⟩

theorem execPowerTimeout_keeps (k : CageId) (r : Option Response) (s : State) :
    KeepsNext k s (execPowerTimeout k r s) := by
  unfold execPowerTimeout
  split
  · exact Keeps.next ((Keeps.refl k s).releaseDraw.modCage Cage.outputsSound_mlpw).logFault.stopAttempt.startReturn
  · exact .same k s

theorem execAdoptStepComplete_keeps (k : CageId) (rs : List Response) (s : State) :
    KeepsNext k s (execAdoptStepComplete k rs s) := by
  unfold execAdoptStepComplete
  split
  · split
    · dsimp only
      split
      · exact Keeps.next ((Keeps.refl k s).quiet rfl).startReturn
      · exact Keeps.next ((Keeps.refl k s).quiet rfl).toSettle
    · exact .same k s
  · exact .same k s

theorem execAdoptCompareB_keeps (k : CageId) (r : Option Response) (s : State) :
    KeepsNext k s (execAdoptCompareB k r s) := by
  unfold execAdoptCompareB
  split
  · exact (Keeps.refl k s).stopAttempt.toSettle.next
  · exact .same k s

/-! ## Cursor returns and the busy schedule -/

theorem execCursorReturnTransactionEnd_keeps (k : CageId) (r : Response) (s : State) :
    KeepsNext k s (execCursorReturnTransactionEnd k r s) := by
  unfold execCursorReturnTransactionEnd
  dsimp only
  split
  · exact (Keeps.refl k s).accountCarried.next
  · split
    · exact (Keeps.refl k s).seqReturnEnd.next
    · exact .same k s
  · split
    · rename_i ch x hx
      obtain rfl := State.channelOf_cage hx
      split
      · split
        · exact (Keeps.refl x.cage s).chanReturnEnd.next
        · exact .same _ s
      · exact .same _ s
    · exact .same k s

theorem execBusyRetryDue_keeps (k : CageId) (s : State) : KeepsNext k s (execBusyRetryDue k s) := by
  unfold execBusyRetryDue
  split
  · split
    · exact ((Keeps.refl k s).reach.modReturn.quiet rfl).next
    · exact .same k s
  · split
    · split
      · exact (Keeps.refl k s).setCtx.modChannel.next
      · exact .same k s
    · exact .same k s

theorem execWriteBusyLimit_keeps (k : CageId) (s : State) : KeepsNext k s (execWriteBusyLimit k s) := by
  unfold execWriteBusyLimit
  split
  · split
    · exact (Keeps.refl k s).reach.returnUnmade.next
    · exact .same k s
  · split
    · rename_i ch x hx
      obtain rfl := State.channelOf_cage hx
      split
      · exact (Keeps.refl x.cage s).modChannel.chanLimit.next
      · exact .same _ s
    · exact .same k s

/-! ## The Restore Engine -/

/-- A channel's transactions that are run only where the channel waits for their answer. -/
theorem Keeps.runAnswerable {s u : State} {x : ChannelCtx} {rs : List Response} {r : AccessRun}
    (h : (if x.answerable then s.runChannel x rs else none) = some (u, r)) : Keeps x.cage s u := by
  split at h
  · exact (Keeps.refl x.cage s).runChannel h
  · cases h

theorem execRecordWriteEnd_keeps (k : CageId) (r : Response) (s : State) :
    KeepsNext k s (execRecordWriteEnd k r s) := by
  unfold execRecordWriteEnd
  split
  · exact .same k s
  · rename_i c x hx
    obtain rfl := State.channelOf_cage hx
    split
    · split
      · exact .same _ s
      · rename_i u run hr
        have ran := Keeps.runAnswerable hr
        split
        · exact ran.chanMore.next
        · exact ran.chanHeld.next
        · exact ran.chanBusy.next
        · exact ran.segmentFailed.next
        · exact ran.recordWritten.next
    · exact .same _ s

theorem execPostDelayEnd_keeps (k : CageId) (s : State) : KeepsNext k s (execPostDelayEnd k s) := by
  unfold execPostDelayEnd
  split
  · exact .same k s
  · rename_i c x hx
    obtain rfl := State.channelOf_cage hx
    split
    · exact (Keeps.refl x.cage s).modChannel.startVerify.next
    · exact .same _ s

theorem execVerifyReadEnd_keeps (k : CageId) (rs : List Response) (s : State) :
    KeepsNext k s (execVerifyReadEnd k rs s) := by
  unfold execVerifyReadEnd
  split
  · exact .same k s
  · rename_i c x hx
    obtain rfl := State.channelOf_cage hx
    split
    · split
      · exact .same _ s
      · rename_i u run hr
        have ran := Keeps.runAnswerable hr
        split
        · exact ran.chanMore.next
        · exact ran.chanHeld.next
        · exact ran.chanBusy.next
        · exact ran.segmentFailed.next
        · exact ran.verifyCompared.next
    · exact .same _ s

theorem execDelayedReadFetchEnd_keeps (k : CageId) (rs : List Response) (s : State) :
    KeepsNext k s (execDelayedReadFetchEnd k rs s) := by
  unfold execDelayedReadFetchEnd
  split
  · exact .same k s
  · rename_i c x hx
    obtain rfl := State.channelOf_cage hx
    split
    · split
      · exact .same _ s
      · rename_i u run hr
        have ran := Keeps.runAnswerable hr
        split
        · exact ran.chanMore.next
        · exact ran.chanHeld.next
        · exact ran.chanBusy.next
        · exact ran.modBuffers.count.startSegment.next
        · exact ran.modBuffers.startSegment.next
    · exact .same _ s

theorem execDeferredWriteApplied_keeps (k : CageId) (rs : List Response) (s : State) :
    KeepsNext k s (execDeferredWriteApplied k rs s) := by
  unfold execDeferredWriteApplied
  split
  · exact .same k s
  · rename_i c x hx
    obtain rfl := State.channelOf_cage hx
    split
    · split
      · exact .same _ s
      · rename_i u run hr
        have ran := Keeps.runAnswerable hr
        split
        · exact ran.chanMore.next
        · exact ran.chanHeld.next
        · exact ran.chanBusy.next
        · exact ran.entryApplied.next
        · exact ran.entryApplied.next
    · exact .same _ s

theorem execDiscardTimerExpiry_keeps (k : CageId) (s : State) : KeepsNext k s (execDiscardTimerExpiry k s) := by
  unfold execDiscardTimerExpiry
  split
  · exact (Keeps.refl k s).modBuffers.count.next
  · exact .same k s

/-! ## The Pass-Through Gate -/

theorem execUpperStart_keeps (k : CageId) (s : State) : KeepsNext k s (execUpperStart k s) := by
  refine ((Keeps.refl k s).upper ?_).next
  split
  · exact (Keeps.refl k s).adoptGate.modGate
  · exact .refl k s

theorem execAddressByte_keeps (k : CageId) (addr : BitVec 7) (read cdaLow : Bool) (s : State) :
    KeepsNext k s (execAddressByte k addr read cdaLow s) := by
  refine ((Keeps.refl k s).upper ?_).next
  split
  · exact (Keeps.refl k s).decideAddress
  · exact .refl k s

theorem execOffsetByte_keeps (k : CageId) (offset : Byte) (cdaLow : Bool) (s : State) :
    KeepsNext k s (execOffsetByte k offset cdaLow s) := by
  refine ((Keeps.refl k s).upper ?_).next
  split
  · exact (Keeps.refl k s).decideOffset
  · exact .refl k s

theorem execWriteDataByte_keeps (k : CageId) (b : Byte) (ack : Bool) (s : State) :
    KeepsNext k s (execWriteDataByte k b ack s) := by
  refine ((Keeps.refl k s).upper ?_).next
  split
  · split
    · exact .refl k s
    · exact (Keeps.refl k s).modGate
  · exact .refl k s

theorem execDeferDataByte_keeps (k : CageId) (b : Byte) (s : State) : KeepsNext k s (execDeferDataByte k b s) := by
  refine ((Keeps.refl k s).upper ?_).next
  split
  · split
    · exact (Keeps.refl k s).deferByte
    · exact .refl k s
  · exact .refl k s

theorem execReadDataByte_keeps (k : CageId) (b : Byte) (ack : Bool) (s : State) :
    KeepsNext k s (execReadDataByte k b s ack) := by
  refine ((Keeps.refl k s).upper ?_).next
  split
  · split
    · exact (Keeps.refl k s).modGate
    · exact .refl k s
  · exact .refl k s

theorem execSlotReadByte_keeps (k : CageId) (ack : Bool) (s : State) :
    KeepsNext k s (execSlotReadByte k s ack) := by
  refine ((Keeps.refl k s).upper ?_).next
  split
  · split
    · exact (Keeps.refl k s).modGate
    · exact .refl k s
  · exact .refl k s

theorem execUpperStop_keeps (k : CageId) (s : State) : KeepsNext k s (execUpperStop k s) := by
  unfold execUpperStop
  dsimp only
  split
  · exact .same k s
  · split
    · exact (Keeps.refl k s).endHunt.next
    · split
      · exact (Keeps.refl k s).endTransaction.resumeSeq.next
      · exact .same k s

theorem execUpperRepeatedStart_keeps (k : CageId) (s : State) : KeepsNext k s (execUpperRepeatedStart k s) := by
  refine ((Keeps.refl k s).upper ?_).next
  split
  · exact (Keeps.refl k s).endTransaction.modGate
  · exact .refl k s

theorem execUpstreamStall_keeps (k : CageId) (inRead : Bool) (waited : Nat) (s : State) :
    KeepsNext k s (execUpstreamStall k inRead s waited) := by
  unfold execUpstreamStall
  split
  · split
    · exact (Keeps.refl k s).stall.next
    · exact .same k s
  · exact .same k s

theorem execBusFreeInterval_keeps (k : CageId) (free : Nat) (s : State) :
    KeepsNext k s (execBusFreeInterval k s free) := by
  unfold execBusFreeInterval
  dsimp only
  split
  · split
    · exact (Keeps.refl k s).endHunt.next
    · exact (Keeps.refl k s).modGate.next
  · exact .same k s

/-! ## The cage port -/

theorem execDownstreamAddressAnswer_keeps (k : CageId) (ack : Bool) (s : State) :
    KeepsNext k s (execDownstreamAddressAnswer k ack s) := by
  unfold execDownstreamAddressAnswer
  dsimp only
  split
  · split
    · exact (Keeps.refl k s).modGate.next
    · exact .same k s
  · exact .same k s

theorem execCdaReleased_keeps (k : CageId) (s : State) : KeepsNext k s (execCdaReleased k s) := by
  unfold execCdaReleased
  dsimp only
  split
  · exact (Keeps.refl k s).gateStart.next
  · split
    · split
      · exact (Keeps.refl k s).chanStart.next
      · exact .same k s
    · exact .same k s

theorem execStuckDetectionExpiry_keeps (k : CageId) (s : State) : KeepsNext k s (execStuckDetectionExpiry k s) := by
  unfold execStuckDetectionExpiry
  dsimp only
  split
  · exact (Keeps.refl k s).modGate.next
  · split
    · split
      · exact (Keeps.refl k s).setCtx.modChannel.next
      · exact .same k s
    · exact .same k s

theorem execBusClearEnd_keeps (k : CageId) (released : Bool) (s : State) :
    KeepsNext k s (execBusClearEnd k released s) := by
  unfold execBusClearEnd
  split
  · split
    · exact (Keeps.refl k s).count.modGate.gateStart.next
    · exact (Keeps.refl k s).gateStuck.next
  · split
    · rename_i c x hx
      obtain rfl := State.channelOf_cage hx
      split
      · split
        · exact (Keeps.refl x.cage s).count.chanStart.next
        · exact (Keeps.refl x.cage s).chanStuck.next
      · exact .same _ s
    · exact .same k s

theorem execCclHoldExpiry_keeps (k : CageId) (held : Nat) (released : Bool) (s : State) :
    KeepsNext k s (execCclHoldExpiry k s held released) := by
  unfold execCclHoldExpiry
  dsimp only
  split
  · split
    · split
      · exact (Keeps.refl k s).cclHeld.next
      · split
        · exact (Keeps.refl k s).modGate.next
        · exact (Keeps.refl k s).modGate.next
    · exact .same k s
  · exact .same k s

/-! ## Directives -/

theorem execDirective_keeps (k : CageId) (code : Byte) (arg : Option Byte) (s : State) :
    KeepsNext k s (.next (s.directive k code arg)) := (Keeps.refl k s).directive.next

theorem execUnknownDirectiveCode_keeps (k : CageId) (code : Byte) (arg : Option Byte) (s : State) :
    KeepsNext k s (execUnknownDirectiveCode k code arg s) := by
  unfold execUnknownDirectiveCode
  split
  · exact execDirective_keeps k code arg s
  · exact .same k s

/-! ## Every command addressed to a cage -/

/-- Every command addressed to a cage answers a next state that keeps what an operation for that cage keeps. -/
theorem exec_keepsNext {i : Instr} {k : CageId} (addressed : Instr.cage? i = some k) (s : State) :
    KeepsNext k s (exec i s) := by
  cases i <;> cases addressed
  case presenceAsserted => exact execPresenceAsserted_keeps k s
  case removal => exact execRemoval_keeps k s
  case mintChange asserted => exact execMintChange_keeps k asserted s
  case settleCompareB => exact execSettleCompareB_keeps k s
  case phaseCompareA => exact execPhaseCompareA_keeps k s
  case attemptDue => exact execAttemptDue_keeps k s
  case probeAttemptNotYet rs => exact execProbeAttemptNotYet_keeps k rs s
  case probeStepComplete rs => exact execProbeStepComplete_keeps k rs s
  case probeHMatch rs => exact execProbeHMatch_keeps k rs s
  case bootTimeout r => exact execBootTimeout_keeps k r s
  case powerTimeout r => exact execPowerTimeout_keeps k r s
  case adoptStepComplete rs => exact execAdoptStepComplete_keeps k rs s
  case adoptCompareB r => exact execAdoptCompareB_keeps k r s
  case cursorReturnTransactionEnd r => exact execCursorReturnTransactionEnd_keeps k r s
  case busyRetryDue => exact execBusyRetryDue_keeps k s
  case writeBusyLimit => exact execWriteBusyLimit_keeps k s
  case recordWriteEnd r => exact execRecordWriteEnd_keeps k r s
  case postDelayEnd => exact execPostDelayEnd_keeps k s
  case verifyReadEnd rs => exact execVerifyReadEnd_keeps k rs s
  case delayedReadFetchEnd rs => exact execDelayedReadFetchEnd_keeps k rs s
  case deferredWriteApplied rs => exact execDeferredWriteApplied_keeps k rs s
  case discardTimerExpiry => exact execDiscardTimerExpiry_keeps k s
  case upperStart => exact execUpperStart_keeps k s
  case addressByte addr read cdaLow => exact execAddressByte_keeps k addr read cdaLow s
  case offsetByte offset cdaLow => exact execOffsetByte_keeps k offset cdaLow s
  case downstreamAddressAnswer ack => exact execDownstreamAddressAnswer_keeps k ack s
  case writeDataByte b ack => exact execWriteDataByte_keeps k b ack s
  case deferDataByte b => exact execDeferDataByte_keeps k b s
  case readDataByte b ack => exact execReadDataByte_keeps k b ack s
  case slotReadByte ack => exact execSlotReadByte_keeps k ack s
  case upperStop => exact execUpperStop_keeps k s
  case upperRepeatedStart => exact execUpperRepeatedStart_keeps k s
  case unknownDirectiveCode code arg => exact execUnknownDirectiveCode_keeps k code arg s
  case upstreamStall inRead waited => exact execUpstreamStall_keeps k inRead waited s
  case busFreeInterval free => exact execBusFreeInterval_keeps k free s
  case cdaReleased => exact execCdaReleased_keeps k s
  case stuckDetectionExpiry => exact execStuckDetectionExpiry_keeps k s
  case busClearEnd released => exact execBusClearEnd_keeps k released s
  case cclHoldExpiry held released => exact execCclHoldExpiry_keeps k held released s
  case reseat arg => exact execDirective_keeps k Code.reseat.byte arg s
  case resume arg => exact execDirective_keeps k Code.resume.byte arg s
  case forget arg => exact execDirective_keeps k Code.forget.byte arg s
  case restoreNow arg => exact execDirective_keeps k Code.restoreNow.byte arg s
  case freeze arg => exact execDirective_keeps k Code.freeze.byte arg s
  case thaw arg => exact execDirective_keeps k Code.thaw.byte arg s
  case report arg => exact execDirective_keeps k Code.report.byte arg s
  case inject arg => exact execDirective_keeps k Code.inject.byte arg s
  case log arg => exact execDirective_keeps k Code.log.byte arg s
  case clearLog arg => exact execDirective_keeps k Code.clearLog.byte arg s
  case reload arg => exact execDirective_keeps k Code.reload.byte arg s

/-- Settles O56: the isolation is a part of what every command addressed to a cage keeps. -/
theorem commandsKeepToTheirCage : Obligations.CommandsKeepToTheirCage := by
  unfold Obligations.CommandsKeepToTheirCage
  intro i k s t addressed run
  obtain ⟨u, hu, kept⟩ := exec_keepsNext addressed s
  obtain rfl : u = t := Host.Outcome.next.inj (hu.symm.trans run)
  exact ⟨kept.others, kept.lineReset, kept.profile, kept.uptime, kept.check, kept.pending⟩

end Sys2Proof.Machine
end

section
/-! SUPPORT. The bounds of the store, of the notice queue and of the Fault Log through every step, and the proof of O57. -/

namespace Sys2Proof.Machine

/-- The canonical form of the slot memory, the bounds of the notice queue and those of the Fault Log go from `s` to `t`. -/
structure KeepsBounds (s t : State) : Prop where
  slots : SlotMem.wf s.store.slots = true → SlotMem.wf t.store.slots = true
  notice : s.notice.bounded → t.notice.bounded
  log : s.log.bounded → t.log.bounded

theorem Keeps.bounds {k : CageId} {s t : State} (h : Keeps k s t) : KeepsBounds s t := ⟨h.slots, h.notice, h.log⟩

theorem KeepsBounds.trans {s t u : State} (a : KeepsBounds s t) (b : KeepsBounds t u) : KeepsBounds s u :=
  ⟨fun h => b.slots (a.slots h), fun h => b.notice (a.notice h), fun h => b.log (a.log h)⟩

theorem KeepsBounds.refl (s : State) : KeepsBounds s s := ⟨id, id, id⟩

/-- A change outside the store, the notice queue and the Fault Log. -/
theorem KeepsBounds.congr {s t u : State} (h : KeepsBounds s t) (store : u.store = t.store)
    (notice : u.notice = t.notice) (log : u.log = t.log) : KeepsBounds s u :=
  ⟨fun a => by rw [store]; exact h.slots a, fun a => by rw [notice]; exact h.notice a,
    fun a => by rw [log]; exact h.log a⟩

theorem KeepsBounds.submit {s t : State} (h : KeepsBounds s t) {f : Frame} : KeepsBounds s (t.submit f) :=
  ⟨h.slots, fun a => NoticePort.bounded_submit (h.notice a) f, h.log⟩

theorem KeepsBounds.foldl {α : Type} {f : State → α → State} (each : ∀ t a, KeepsBounds t (f t a)) (l : List α)
    {s t : State} (h : KeepsBounds s t) : KeepsBounds s (l.foldl f t) := by
  induction l generalizing t with
  | nil => exact h
  | cons a l ih => exact ih (h.trans (each t a))

theorem NoticePort.fresh_bounded : NoticePort.fresh.bounded := ⟨Nat.zero_le _, Nat.zero_le _⟩

theorem FaultLog.fresh_bounded : FaultLog.fresh.bounded := ⟨Nat.zero_le _, Nat.zero_le _, fun _ => ⟨rfl, rfl⟩⟩

/-- A frame that leaves the queue makes room for the LOST frame that may take its place (R205). -/
theorem NoticePort.bounded_leave {n : NoticePort} (h : n.bounded) : n.leave.bounded := by
  obtain ⟨room, lost⟩ := h
  unfold NoticePort.leave
  split
  · exact ⟨room, lost⟩
  · rename_i f rest queued
    rw [queued, List.length_cons] at room
    split
    · exact ⟨by dsimp only; omega, lost⟩
    · exact ⟨by simp only [List.length_append, List.length_singleton]; omega, Nat.zero_le _⟩

/-- A millisecond counts the uptime and leaves the other items of the log alone (R196). -/
theorem State.tick_keepsBounds (s : State) : KeepsBounds s s.tick := by
  unfold State.tick
  dsimp only
  split
  · exact ⟨id, id, id⟩
  · exact ⟨id, id, id⟩

/-! ## The ends of the loads -/

theorem KeepsBounds.logFinding {s t : State} (h : KeepsBounds s t) {trig : Trigger} {f : Finding} :
    KeepsBounds s (t.logFinding trig f) := by
  cases f with
  | bad cause => exact h.trans (Keeps.refl 0 t).logFault.bounds
  | absent => exact h
  | good => exact h

theorem KeepsBounds.unitTests {s t : State} (h : KeepsBounds s t) : KeepsBounds s t.unitTests :=
  h.trans (Keeps.refl 0 t).unitTests.bounds

theorem KeepsBounds.handOn {s t : State} (h : KeepsBounds s t) {img : List Byte} : KeepsBounds s (t.handOn img) := by
  unfold State.handOn
  exact KeepsBounds.unitTests (h.congr rfl rfl rfl)

theorem State.endReload_keepsBounds (s : State) (img : List Byte) : KeepsBounds s (s.endReload img) := by
  unfold State.endReload
  have closed (n : Nat) : KeepsBounds s { s with loader :=
      { s.loader with load := none, flash := s.loader.flash.ended n } } :=
    (KeepsBounds.refl s).congr rfl rfl rfl
  cases finding img with
  | good => exact (closed _).handOn.submit
  | bad cause => exact (closed _).logFinding.submit
  | absent => exact (closed _).submit

/-- A change of the journals leaves everything outside the cages alone. -/
theorem State.mapJournals_shared (s : State) (f : CageId → CageRecord → CageRecord) : let t := s.mapJournals f
    t.store = s.store ∧ t.notice = s.notice ∧ t.log = s.log := by
  simp only [State.mapJournals, and_self]

/-- Discarded journals free the slots of the pool one by one (R48). -/
theorem State.freshJournals_shared (s : State) (p : Profile) (check : CheckValue) : let t := s.freshJournals p check
    t.store = { slots := (s.store.slots.map Prod.fst).foldl SlotMem.free s.store.slots, checkValue := check } ∧
    t.notice = s.notice ∧ t.log = s.log := by
  simp only [State.freshJournals, State.mapJournals, and_self]

theorem KeepsBounds.keepJournals {s t : State} (h : KeepsBounds s t) {p : Profile} :
    KeepsBounds s (t.keepJournals p) := by
  obtain ⟨store, notice, log⟩ := t.mapJournals_shared fun k j => { j with quota := p.quotas[k], mask := none }
  exact h.congr store notice log

theorem KeepsBounds.freshJournals {s t : State} (h : KeepsBounds s t) {p : Profile} {check : CheckValue} :
    KeepsBounds s (t.freshJournals p check) := by
  obtain ⟨store, notice, log⟩ := t.freshJournals_shared p check
  exact ⟨fun a => by rw [store]; exact SlotMem.wf_foldl_free _ (h.slots a), fun a => by rw [notice]; exact h.notice a,
    fun a => by rw [log]; exact h.log a⟩

theorem KeepsBounds.compareJournals {s t : State} (h : KeepsBounds s t) {p : Profile} {check : CheckValue} :
    KeepsBounds s (t.compareJournals p check).1 := by
  unfold State.compareJournals
  split
  · exact h.keepJournals
  · exact h.freshJournals

theorem KeepsBounds.install {s t : State} (h : KeepsBounds s t) {p : Profile} {o : LoadOutcome} {check : CheckValue} :
    KeepsBounds s (t.install p o check) := h.congr rfl rfl rfl

theorem State.leaveWaiting_keepsBounds (s : State) (k : CageId) : KeepsBounds s (s.leaveWaiting k) := by
  unfold State.leaveWaiting
  dsimp only
  split
  · have entered : KeepsBounds s (s.modSeq k fun q =>
        { q with state := .adopt, adoptPending := false, bootTime := 0, powerTime := 0 }) :=
      (KeepsBounds.refl s).congr rfl rfl rfl
    exact entered.trans (Keeps.refl k _).startPhase.bounds
  · split
    · exact (Keeps.refl k s).toSettle.bounds
    · exact .refl s

/-- The flash port when the load of this flash ends (R201). -/
def State.portEnded (s : State) (img : List Byte) : State :=
  { s with loader := { s.loader with flash := s.loader.flash.ended ((finding img).clocked img) } }

/-- The cages and gates go into service at the end of a reset load (R78, R143). -/
def State.intoService (s : State) (policy : PresencePolicy) : State :=
  { s with cages := s.cages.map fun c => c.afterLoad policy }

/-- The part at the end of a reset load, before the cages that waited for it go on (R201). -/
def State.loaded (s : State) (t : Trigger) (img : List Byte) : State :=
  let p := (finding img).installed img
  let check := (finding img).check img
  let r := (s.portEnded img).compareJournals p check
  let s1 := (r.1.install p (finding img).outcome check).logFinding t (finding img)
  (s1.submit (profileFrame t (finding img).outcome check (decide (t = .lineReset) && r.2)
    (decide (t = .lineReset) && !r.2))).intoService p.policy

theorem State.endResetLoad_eq (s : State) (t : Trigger) (img : List Byte) :
    s.endResetLoad t img = (List.finRange 32).foldl State.leaveWaiting (s.loaded t img) := rfl

theorem KeepsBounds.portEnded {s t : State} (h : KeepsBounds s t) {img : List Byte} : KeepsBounds s (t.portEnded img) :=
  h.congr rfl rfl rfl

theorem KeepsBounds.intoService {s t : State} (h : KeepsBounds s t) {policy : PresencePolicy} :
    KeepsBounds s (t.intoService policy) := h.congr rfl rfl rfl

theorem State.endResetLoad_keepsBounds (s : State) (t : Trigger) (img : List Byte) :
    KeepsBounds s (s.endResetLoad t img) := by
  rw [State.endResetLoad_eq]
  exact .foldl State.leaveWaiting_keepsBounds _
    (KeepsBounds.refl s).portEnded.compareJournals.install.logFinding.submit.intoService

/-! ## Every step -/

/-- A meaning that answers a next state within the bounds. -/
def BoundedNext (s : State) (r : Result) : Prop := ∃ t : State, r = .next t ∧ KeepsBounds s t

theorem KeepsBounds.next {s t : State} (h : KeepsBounds s t) : BoundedNext s (.next t) := ⟨t, rfl, h⟩

theorem BoundedNext.same (s : State) : BoundedNext s (.next s) := (KeepsBounds.refl s).next

theorem KeepsNext.bounded {k : CageId} {s : State} {r : Result} (h : KeepsNext k s r) : BoundedNext s r := by
  obtain ⟨t, answered, kept⟩ := h
  exact ⟨t, answered, kept.bounds⟩

/-- Every block at its power-on values is within its bounds (R48). -/
theorem execPowerOn_bounded (s : State) : BoundedNext s (execPowerOn s) :=
  KeepsBounds.next ⟨fun _ => rfl, fun _ => NoticePort.fresh_bounded, fun _ => FaultLog.fresh_bounded⟩

theorem execLineResetAssert_bounded (s : State) : BoundedNext s (execLineResetAssert s) := by
  unfold execLineResetAssert
  split
  · exact .same s
  · exact KeepsBounds.next ⟨id, fun _ => NoticePort.fresh_bounded, id⟩

theorem execLineResetRelease_bounded (s : State) : BoundedNext s (execLineResetRelease s) := by
  unfold execLineResetRelease
  split
  · exact KeepsBounds.next ((KeepsBounds.refl s).congr rfl rfl rfl)
  · exact .same s

theorem execResetProfileLoadEnd_bounded (flash : List Byte) (s : State) :
    BoundedNext s (execResetProfileLoadEnd flash s) := by
  unfold execResetProfileLoadEnd
  split
  · exact (s.endResetLoad_keepsBounds .powerOn flash).next
  · exact (s.endResetLoad_keepsBounds .lineReset flash).next
  · exact .same s

theorem execReloadLoadEnd_bounded (flash : List Byte) (s : State) : BoundedNext s (execReloadLoadEnd flash s) := by
  unfold execReloadLoadEnd
  split
  · exact (s.endReload_keepsBounds flash).next
  · exact .same s

theorem execPendingBudgetAdopt_bounded (s : State) : BoundedNext s (execPendingBudgetAdopt s) := by
  unfold execPendingBudgetAdopt
  split
  · exact (Keeps.refl 0 s).unitTests.bounds.next
  · exact .same s

theorem execChannelGrant_bounded (s : State) : BoundedNext s (execChannelGrant s) := by
  unfold execChannelGrant
  split
  · rename_i k rest c _ _
    exact (Keeps.refl k s).setStaged.grant.bounds.next
  · exact .same s

theorem execNoticeFrameSent_bounded (s : State) : BoundedNext s (execNoticeFrameSent s) :=
  KeepsBounds.next ⟨id, NoticePort.bounded_leave, id⟩

theorem exec_bounded_partWide {i : Instr} (partWide : Instr.cage? i = none) (s : State) : BoundedNext s (exec i s) := by
  cases i <;> cases partWide
  case powerOn => exact execPowerOn_bounded s
  case lineResetAssert => exact execLineResetAssert_bounded s
  case lineResetRelease => exact execLineResetRelease_bounded s
  case resetProfileLoadEnd flash => exact execResetProfileLoadEnd_bounded flash s
  case reloadLoadEnd flash => exact execReloadLoadEnd_bounded flash s
  case pendingBudgetAdopt => exact execPendingBudgetAdopt_bounded s
  case admission => exact (Keeps.refl 0 s).checkHead.bounds.next
  case channelGrant => exact execChannelGrant_bounded s
  case noticeFrameSent => exact execNoticeFrameSent_bounded s

/-- Every command answers a next state within the bounds: a cage's by what it keeps, the part's own one by one. -/
theorem exec_bounded (i : Instr) (s : State) : BoundedNext s (exec i s) := by
  cases addressed : Instr.cage? i with
  | some k => exact (exec_keepsNext addressed s).bounded
  | none => exact exec_bounded_partWide addressed s

theorem State.idle_bounded (s : State) : BoundedNext s s.idle := by
  unfold State.idle
  split
  · exact exec_bounded .pendingBudgetAdopt s
  · split
    · exact exec_bounded .admission s
    · split
      · exact exec_bounded .channelGrant s
      · exact s.tick_keepsBounds.next

/-- Settles O57: a command by `exec_bounded`, an empty queue by `State.idle_bounded`. -/
theorem stepKeepsStoreAndQueues : Obligations.StepKeepsStoreAndQueues := by
  unfold Obligations.StepKeepsStoreAndQueues
  intro s
  have bounded : BoundedNext s (step s) := by
    unfold step
    split
    · rename_i c rest _
      obtain ⟨t, answered, kept⟩ := exec_bounded c { s with pending := rest }
      exact ⟨t, answered, kept.slots, kept.notice, kept.log⟩
    · exact s.idle_bounded
  obtain ⟨t, answered, kept⟩ := bounded
  exact ⟨t, answered, kept.slots, kept.notice, kept.log⟩

end Sys2Proof.Machine
end

section
/-! SUPPORT. The invariants of the steps in the state after reset, and the proof of O60. -/

namespace Sys2Proof.Machine

/-- A cage after power-on has the output levels of EMPTY (R50, R51, R53). -/
theorem Cage.powerOn_outputsSound (mpres mint : Bool) : (Cage.powerOn mpres mint).outputsSound :=
  ⟨fun _ _ => ⟨rfl, rfl⟩, fun h => absurd h Bool.false_ne_true, fun h => absurd h Bool.false_ne_true⟩

/-- Settles O60: nothing is stored, queued, logged or charged, and every cage is in EMPTY. -/
theorem resetMeetsInvariants : Obligations.ResetMeetsInvariants := by
  unfold Obligations.ResetMeetsInvariants
  refine ⟨State.reset_slots_wf, NoticePort.fresh_bounded, FaultLog.fresh_bounded, .inl (Nat.zero_le _), fun k => ?_⟩
  rw [State.reset, State.powerOn_cage]
  exact Cage.powerOn_outputsSound _ _

end Sys2Proof.Machine
end

section
/-! SUPPORT. The directives that act on the journal alone (R42, R43, R187, R195), and the proof of O50. -/

namespace Sys2Proof.Machine

/-- In service, outside RESTORE and cursor returns, a cage directive other than INJECT acts (R175–R178). -/
theorem State.directive_acts {s : State} {k : CageId} (inService : s.inService = true)
    (notRestore : (s.cage k).seq.state ≠ .restore) (noReturn : (s.cage k).seq.ret = none) {c : Code} (h : c ≠ .inject)
    (cageWide : c.partWide = false) (arg : Option Byte) :
    s.directive k c.byte arg = s.act k c { code := c.byte, arg := arg } := by
  rw [State.directive_inService _ _ _ _ inService, State.arrive_cage _ _ _ _ h cageWide,
    State.actOrWait_acts _ _ _ _ notRestore noReturn]

theorem injectArgument_some {m : Byte} (h : bitCount m = 1 ∨ bitCount m % 2 = 0) : injectArgument (some m) = true := by
  simpa [injectArgument] using h

/-- So does an INJECT with an argument that R176 takes. -/
theorem State.directive_injects {s : State} {k : CageId} (inService : s.inService = true)
    (notRestore : (s.cage k).seq.state ≠ .restore) (noReturn : (s.cage k).seq.ret = none) {m : Byte}
    (h : bitCount m = 1 ∨ bitCount m % 2 = 0) :
    s.directive k Code.inject.byte (some m) = s.modJournal k fun j => { j with mask := injectedMask m } := by
  have known : lookupCode Code.inject.byte = some .inject := by decide
  rw [State.directive_inService _ _ _ _ inService, State.arrive]
  simp only [known, injectArgument_some h]
  exact State.actOrWait_acts s k .inject _ notRestore noReturn

/-- FREEZE makes a usable journal FROZEN, which it may be already (R42). -/
theorem State.actFreeze_usable {s : State} {k : CageId} (d : Directive)
    (h : (s.cage k).journal.state = .opened ∨ (s.cage k).journal.state = .frozen) :
    cageBecomes k { s.cage k with journal := { (s.cage k).journal with state := .frozen } } s (s.actFreeze k d) := by
  unfold State.actFreeze
  rcases h with opened | frozen
  · rw [opened]
    exact cageBecomes_modCage rfl
  · rw [frozen]
    exact cageBecomes_self (by rw [← frozen])

/-- THAW makes a usable journal OPEN, which it may be already (R43). -/
theorem State.actThaw_usable {s : State} {k : CageId} (d : Directive)
    (h : (s.cage k).journal.state = .opened ∨ (s.cage k).journal.state = .frozen) :
    cageBecomes k { s.cage k with journal := { (s.cage k).journal with state := .opened } } s (s.actThaw k d) := by
  unfold State.actThaw
  rcases h with opened | frozen
  · rw [opened]
    exact cageBecomes_self (by rw [← opened])
  · rw [frozen]
    exact cageBecomes_modCage rfl

/-- Both are refused with reason JOURNAL in SPILLED and DAMAGED (R42, R43, R182). -/
theorem State.actFreeze_actThaw_unusable {s : State} {k : CageId} (d : Directive)
    (h : ¬((s.cage k).journal.state = .opened ∨ (s.cage k).journal.state = .frozen)) :
    s.actFreeze k d = s.refuse k d .journal ∧ s.actThaw k d = s.refuse k d .journal := by
  unfold State.actFreeze State.actThaw
  cases st : (s.cage k).journal.state with
  | opened => exact absurd (.inl st) h
  | frozen => exact absurd (.inr st) h
  | spilled => exact ⟨rfl, rfl⟩
  | damaged => exact ⟨rfl, rfl⟩

/-- Settles O50: each directive acts on arrival, FREEZE and THAW by the journal's state. -/
theorem journalDirectives : Obligations.JournalDirectives := by
  unfold Obligations.JournalDirectives
  intro k arg s c inService notRestore noReturn becomes refused usable
  have freezes : exec (.freeze k arg) s = .next (s.actFreeze k { code := 0x05, arg := arg }) :=
    congrArg Host.Outcome.next
      (State.directive_acts inService notRestore noReturn (c := .freeze) (by decide) rfl arg)
  have thaws : exec (.thaw k arg) s = .next (s.actThaw k { code := 0x06, arg := arg }) :=
    congrArg Host.Outcome.next
      (State.directive_acts inService notRestore noReturn (c := .thaw) (by decide) rfl arg)
  refine ⟨fun h => ⟨⟨_, freezes, State.actFreeze_usable _ h⟩, ⟨_, thaws, State.actThaw_usable _ h⟩⟩, fun h => ?refused,
    fun m given bits => ?inject⟩
  case refused =>
    rw [freezes, thaws, (State.actFreeze_actThaw_unusable _ h).1, (State.actFreeze_actThaw_unusable _ h).2]
    exact ⟨rfl, rfl⟩
  case inject =>
    subst given
    exact ⟨_, congrArg Host.Outcome.next (State.directive_injects inService notRestore noReturn bits),
      cageBecomes_modCage rfl⟩

end Sys2Proof.Machine
end

section
/-! SUPPORT. The journals and the store at the end of a reset load (R48, R49), and the proof of O9. -/

namespace Sys2Proof.Machine

/-! ## Freeing every slot -/

theorem SlotMem.read_unlisted {i : Nat} : ∀ {m : SlotMem}, i ∉ m.map Prod.fst → SlotMem.read m i = Slot.blank
  | [], _ => rfl
  | (a, x) :: t, h => by
    rw [List.map_cons, List.mem_cons, not_or] at h
    rw [SlotMem.read, if_neg (Ne.symm h.1)]
    exact SlotMem.read_unlisted h.2

theorem SlotMem.read_foldl_freed {i : Nat} (l : List Nat) {m : SlotMem} (wf : SlotMem.wf m = true) (h : i ∈ l) :
    (SlotMem.read (l.foldl SlotMem.free m) i).used = false := by
  induction l generalizing m with
  | nil => exact absurd h List.not_mem_nil
  | cons a l ih =>
    by_cases later : i ∈ l
    · exact ih (SlotMem.wf_free wf) later
    · obtain rfl : i = a := (List.mem_cons.1 h).resolve_right later
      rw [List.foldl_cons, SlotMem.read_foldl_free i l _ later, SlotMem.read_free_same wf]

/-- With every listed slot freed no slot is in use (R48). -/
theorem SlotMem.read_foldl_free_all {m : SlotMem} (wf : SlotMem.wf m = true) (i : Nat) :
    (SlotMem.read ((m.map Prod.fst).foldl SlotMem.free m) i).used = false := by
  by_cases listed : i ∈ m.map Prod.fst
  · exact SlotMem.read_foldl_freed _ wf listed
  · rw [SlotMem.read_foldl_free i _ m listed, SlotMem.read_unlisted listed]
    rfl

/-! ## What leaves the journals and the store alone -/

/-- Every cage record and the store are in `t` as they are in `s`. -/
structure SameJournals (s t : State) : Prop where
  store : t.store = s.store
  journal : ∀ k : CageId, (t.cage k).journal = (s.cage k).journal

theorem SameJournals.refl (s : State) : SameJournals s s := ⟨rfl, fun _ => rfl⟩

theorem SameJournals.trans {s t u : State} (a : SameJournals s t) (b : SameJournals t u) : SameJournals s u :=
  ⟨b.store.trans a.store, fun k => (b.journal k).trans (a.journal k)⟩

theorem SameJournals.foldl {α : Type} {f : State → α → State} (each : ∀ t a, SameJournals t (f t a)) (l : List α)
    {s t : State} (h : SameJournals s t) : SameJournals s (l.foldl f t) := by
  induction l generalizing t with
  | nil => exact h
  | cons a l ih => exact ih (h.trans (each t a))

theorem SameJournals.modCage {s t : State} (h : SameJournals s t) {k : CageId} {f : Cage → Cage}
    (hf : (f (t.cage k)).journal = (t.cage k).journal) : SameJournals s (t.modCage k f) where
  store := h.store
  journal := fun j => by
    by_cases hj : j = k
    · subst hj
      rw [State.cage_modCage_same, hf, h.journal]
    · rw [State.cage_modCage_other t k j f hj, h.journal]

theorem SameJournals.adoptSeq {s t : State} (h : SameJournals s t) {k : CageId} : SameJournals s (t.adoptSeq k) := by
  obtain ⟨own, others, -, -, -, store, -⟩ := t.adoptSeq_facts k
  refine h.trans ⟨store, fun j => ?_⟩
  by_cases hj : j = k
  · subst hj
    rcases own with same | ⟨set, -, adopted⟩
    · rw [same]
    · rw [adopted]
      rfl
  · rw [others j hj]

theorem SameJournals.startPhase {s t : State} (h : SameJournals s t) {k : CageId} {p : Phase} :
    SameJournals s (t.startPhase k p) := by
  unfold State.startPhase
  exact h.adoptSeq.modCage rfl

theorem State.leaveWaiting_sameJournals (s : State) (k : CageId) : SameJournals s (s.leaveWaiting k) := by
  unfold State.leaveWaiting
  dsimp only
  split
  · unfold State.toAdopt
    exact SameJournals.startPhase (SameJournals.modCage (.refl s) rfl)
  · split
    · unfold State.toSettle
      exact SameJournals.startPhase (SameJournals.modCage (.refl s) rfl)
    · exact .refl s

theorem SameJournals.install {s t : State} (h : SameJournals s t) {p : Profile} {o : LoadOutcome} {check : CheckValue} :
    SameJournals s (t.install p o check) := h.trans ⟨rfl, fun k => by simp [State.cage, State.install]⟩

theorem SameJournals.submit {s t : State} (h : SameJournals s t) {f : Frame} : SameJournals s (t.submit f) :=
  ⟨h.store, h.journal⟩

theorem SameJournals.logFinding {s t : State} (h : SameJournals s t) {trig : Trigger} {f : Finding} :
    SameJournals s (t.logFinding trig f) := by
  cases f with
  | bad cause => exact ⟨h.store, h.journal⟩
  | absent => exact h
  | good => exact h

theorem SameJournals.intoService {s t : State} (h : SameJournals s t) {policy : PresencePolicy} :
    SameJournals s (t.intoService policy) :=
  h.trans ⟨rfl, fun k => by simp [State.cage, State.intoService, Cage.afterLoad]⟩

/-- After the comparison the end of a reset load leaves the journals and the store alone. -/
theorem State.endResetLoad_sameJournals (s : State) (t : Trigger) (img : List Byte) :
    SameJournals ((s.portEnded img).compareJournals ((finding img).installed img) ((finding img).check img)).1
      (s.endResetLoad t img) := by
  rw [State.endResetLoad_eq]
  exact .foldl State.leaveWaiting_sameJournals _ (SameJournals.refl _).install.logFinding.submit.intoService

/-! ## The comparison -/

theorem State.mapJournals_journal (s : State) (f : CageId → CageRecord → CageRecord) (k : CageId) :
    ((s.mapJournals f).cage k).journal = f k (s.cage k).journal := by
  simp [State.mapJournals, State.cage]

theorem State.freshJournals_journal (s : State) (p : Profile) (check : CheckValue) (k : CageId) :
    ((s.freshJournals p check).cage k).journal = CageRecord.fresh p.quotas[k] := by
  simp [State.freshJournals, State.mapJournals, State.cage]

theorem State.compareJournals_kept {s : State} (p : Profile) {check : CheckValue}
    (h : s.loader.everLoaded = true ∧ s.store.checkValue = check) :
    (s.compareJournals p check).1 = s.keepJournals p := by
  simp [State.compareJournals, h]

theorem State.compareJournals_discarded {s : State} (p : Profile) {check : CheckValue}
    (h : ¬(s.loader.everLoaded = true ∧ s.store.checkValue = check)) :
    (s.compareJournals p check).1 = s.freshJournals p check := by
  rw [State.compareJournals, if_neg (by simpa using h)]

/-- Settles O9: the comparison keeps or discards the journals, and what follows it leaves them alone. -/
theorem journalsKeptOrDiscarded : Obligations.JournalsKeptOrDiscarded := by
  unfold Obligations.JournalsKeptOrDiscarded
  intro flash trig s reset loading wf f p
  have run : exec (.resetProfileLoadEnd flash) s = .next (s.endResetLoad trig flash) := by
    rcases reset with rfl | rfl <;> simp only [exec, execResetProfileLoadEnd, loading]
  have after := s.endResetLoad_sameJournals trig flash
  refine ⟨_, run, fun agree => ?kept, fun differ => ?discarded⟩
  case kept =>
    rw [State.compareJournals_kept (s := s.portEnded flash) _ agree] at after
    exact ⟨after.store.trans ((s.portEnded flash).mapJournals_shared _).1, fun k =>
      (after.journal k).trans ((s.portEnded flash).mapJournals_journal _ k)⟩
  case discarded =>
    rw [State.compareJournals_discarded (s := s.portEnded flash) _ differ] at after
    have store := after.store.trans ((s.portEnded flash).freshJournals_shared _ _).1
    refine ⟨congrArg Store.checkValue store, fun i => ?_, fun k =>
      (after.journal k).trans ((s.portEnded flash).freshJournals_journal _ _ k)⟩
    rw [store]
    exact SlotMem.read_foldl_free_all wf i

end Sys2Proof.Machine
end

section
/-! SUPPORT. The memory a commit leaves: the records in their slots and the pending mask on the first one written (R39,
R195). -/

namespace Sys2Proof.Machine

/-- A memory from which the records of a working copy are committed: the slots they have are in use, distinct and clean, and
those of the unchanged ones hold them. -/
structure Committable (m : SlotMem) (ws : List WorkRec) : Prop where
  wf : SlotMem.wf m = true
  nodup : (slotsOf ws).Nodup
  used : ∀ i ∈ slotsOf ws, (SlotMem.read m i).used = true
  clean : ∀ i ∈ slotsOf ws, (SlotMem.read m i).syndrome = 0
  same : ∀ w ∈ ws, ∀ i, w.slot = some i → w.changed = false → (SlotMem.read m i).record = w.record

/-- After the rewrites in place every record with a slot stands in it. -/
theorem Committable.stored {m : SlotMem} {ws : List WorkRec} (h : Committable m ws) (mask : Option Byte) :
    Stored (rewrite m mask ws).1 ws where
  used := fun w hw i hi => by
    have own := rewrite_own ws m mask h.wf h.nodup w hw i hi
    by_cases changed : w.changed = true
    · rw [if_pos changed] at own
      exact ⟨own.2, own.1⟩
    · rw [if_neg changed] at own
      rw [own]
      exact ⟨h.used i (mem_slotsOf.2 ⟨w, hw, hi⟩), h.same w hw i hi (Bool.eq_false_iff.2 changed)⟩

/-- The memory, the pending mask and the slots after a commit: rewrites in place first, then the new records (R39). -/
def committed (m : SlotMem) (mask : Option Byte) (ws : List WorkRec) : SlotMem × Option Byte × List Nat :=
  place (rewrite m mask ws).1 (rewrite m mask ws).2 ws

theorem Committable.placed {m : SlotMem} {ws : List WorkRec} (h : Committable m ws) (mask : Option Byte) :
    Placed (rewrite m mask ws).1 (committed m mask ws).1 ws (committed m mask ws).2.2 :=
  place_placed ws _ _ (SlotMem.wf_rewrite ws h.wf) (h.stored mask)

/-- The new records leave the slots of the others as the rewrites have made them. -/
theorem Committable.read_own {m : SlotMem} {ws : List WorkRec} (h : Committable m ws) (mask : Option Byte) {i : Nat}
    (hi : i ∈ slotsOf ws) : SlotMem.read (committed m mask ws).1 i = SlotMem.read (rewrite m mask ws).1 i := by
  obtain ⟨w, hw, slot⟩ := mem_slotsOf.1 hi
  exact (h.placed mask).keep i ((h.stored mask).used w hw i slot).1

/-! ## The first record written -/

/-- The record number `n` is the first to meet a condition. -/
def FirstOf (ws : List WorkRec) (p : WorkRec → Prop) (n : Nat) : Prop :=
  (∃ x : WorkRec, ws[n]? = some x ∧ p x) ∧ ∀ (m : Nat) (x : WorkRec), m < n → ws[m]? = some x → ¬p x

theorem FirstOf.of_split {pre post : List WorkRec} {x : WorkRec} {p : WorkRec → Prop} (hx : p x)
    (hpre : ∀ y ∈ pre, ¬p y) : FirstOf (pre ++ x :: post) p pre.length := by
  refine ⟨⟨x, by simp, hx⟩, fun m y before at_m => hpre y ?_⟩
  rw [List.getElem?_append_left before] at at_m
  exact List.mem_of_getElem? at_m

/-- A record that is rewritten in place (R39). -/
def WorkRec.rewrites (x : WorkRec) : Prop := x.changed = true ∧ x.slot.isSome = true

theorem WorkRec.rewritten_iff {x : WorkRec} : x.rewritten = true ↔ x.rewrites := by
  rw [WorkRec.rewritten, Bool.and_eq_true, WorkRec.rewrites]

/-- The place of the first record a commit writes: the first rewritten one, else the first new one (R195). -/
def FirstWritten (ws : List WorkRec) (n : Nat) : Prop :=
  FirstOf ws WorkRec.rewrites n ∨ (∀ x ∈ ws, ¬x.rewrites) ∧ FirstOf ws (fun x => x.slot = none) n

/-- What a commit makes of the pending mask: the syndrome of the first record written, which is in slot `i`, and of no other
(R195). -/
structure MaskOn (m : SlotMem) (slots : List Nat) (mask : Option Byte) (i : Nat) : Prop where
  first : (SlotMem.read m i).syndrome = mask.getD 0
  others : ∀ l ∈ slots, l ≠ i → (SlotMem.read m l).syndrome = 0

/-- Where a record is rewritten, the rewrites take the mask. -/
theorem Committable.rewrite_mask {m : SlotMem} {pre post : List WorkRec} {x : WorkRec} {i : Nat}
    (h : Committable m (pre ++ x :: post)) (mask : Option Byte) (hpre : ∀ y ∈ pre, ¬y.rewrites) (hx : x.changed = true)
    (hi : x.slot = some i) : let r := rewrite m mask (pre ++ x :: post)
    r.2 = none ∧ MaskOn r.1 (slotsOf (pre ++ x :: post)) mask i := by
  have skip : rewrite m mask (pre ++ x :: post) = rewrite (SlotMem.write m i (Slot.of x.record mask)) none post := by
    rw [rewrite_skip m mask pre fun y hy => Bool.eq_false_iff.2 fun e => hpre y hy (WorkRec.rewritten_iff.1 e), rewrite,
      hi]
    exact if_pos hx
  have split : slotsOf (pre ++ x :: post) = slotsOf pre ++ i :: slotsOf post := by
    rw [slotsOf_append, slotsOf, slotsOf, List.filterMap_cons, hi]
    rfl
  have tail : (i :: slotsOf post).Nodup := (split ▸ h.nodup).of_append_right
  obtain ⟨fresh, nodup⟩ := List.nodup_cons.1 tail
  obtain ⟨taken, clean⟩ := rewrite_none post (SlotMem.write m i (Slot.of x.record mask)) (SlotMem.wf_write h.wf) nodup
  refine ⟨by rw [skip]; exact taken, ?first, fun l hl ne => ?others⟩
  case first =>
    rw [skip, rewrite_other post _ _ i fresh, SlotMem.read_write_same h.wf]
    rfl
  case others =>
    obtain ⟨v, hv, slot⟩ := mem_slotsOf.1 hl
    by_cases changed : v.changed = true
    · have later : v ∈ post := by
        rcases List.mem_append.1 hv with hv | hv
        · exact absurd ⟨changed, by rw [slot]; rfl⟩ (hpre v hv)
        · rcases List.mem_cons.1 hv with rfl | hv
          · exact absurd (Option.some.inj (slot.symm.trans hi)) ne
          · exact hv
      rw [skip]
      exact clean v later l slot changed
    · have own := rewrite_own _ m mask h.wf h.nodup v hv l slot
      rw [if_neg changed] at own
      rw [own]
      exact h.clean l hl

/-- The first record written has the mask, every other is clean, and no mask is pending any more. -/
def MaskSpent (ws : List WorkRec) (mask : Option Byte) (r : SlotMem × Option Byte × List Nat) : Prop :=
  r.2.1 = none ∧ ∃ n i, FirstWritten ws n ∧ r.2.2[n]? = some i ∧ MaskOn r.1 r.2.2 mask i

/-- A commit that rewrites a record spends the mask on the first of them. -/
theorem Committable.mask_rewritten {m : SlotMem} {ws : List WorkRec} (h : Committable m ws) (mask : Option Byte)
    (someRewritten : ∃ x ∈ ws, x.rewrites) : MaskSpent ws mask (committed m mask ws) := by
  obtain ⟨pre, x, post, rfl, hx, hpre⟩ := split_first WorkRec.rewrites ws someRewritten
  obtain ⟨i, hi⟩ := Option.isSome_iff_exists.1 hx.2
  obtain ⟨taken, maskOn⟩ := h.rewrite_mask mask hpre hx.1 hi
  obtain ⟨absent, clean⟩ := place_none _ _ (SlotMem.wf_rewrite _ h.wf) (h.stored mask)
  have after : committed m mask (pre ++ x :: post) =
      place (rewrite m mask (pre ++ x :: post)).1 none (pre ++ x :: post) := by
    rw [committed, taken]
  rw [← after] at absent clean
  refine ⟨absent, pre.length, i, .inl (.of_split hx hpre), place_slot _ _ _ _ x i (by simp) hi, ?first,
    fun l hl ne => ?others⟩
  case first =>
    rw [h.read_own mask (mem_slotsOf.2 ⟨x, by simp, hi⟩)]
    exact maskOn.first
  case others =>
    rcases clean l hl with hl | hl
    · rw [h.read_own mask hl]
      exact maskOn.others l hl ne
    · exact hl

/-- Placing records of which one has no slot: those before it keep their slots, it takes the lowest free one with the
mask. -/
theorem place_split {pre : List WorkRec} {x : WorkRec} (hpre : ∀ y ∈ pre, y.slot ≠ none) (hx : x.slot = none)
    (m : SlotMem) (mask : Option Byte) (post : List WorkRec) :
    let q := place (SlotMem.write m (SlotMem.lowestFree m) (Slot.of x.record mask)) none post
    place m mask (pre ++ x :: post) = (q.1, q.2.1, slotsOf pre ++ SlotMem.lowestFree m :: q.2.2) := by
  rw [place_append, (place_skip m mask pre hpre).1]
  simp only [place, hx]

/-- The first new record takes the mask; every other slot was there before or is clean. -/
theorem place_mask {m : SlotMem} {pre post : List WorkRec} {x : WorkRec} (wf : SlotMem.wf m = true)
    (stored : Stored m (pre ++ x :: post)) (hpre : ∀ y ∈ pre, y.slot ≠ none) (hx : x.slot = none)
    (mask : Option Byte) : let r := place m mask (pre ++ x :: post)
    r.2.1 = none ∧ r.2.2[pre.length]? = some (SlotMem.lowestFree m) ∧
    (SlotMem.read r.1 (SlotMem.lowestFree m)).syndrome = mask.getD 0 ∧
    ∀ l ∈ r.2.2, l = SlotMem.lowestFree m ∨ l ∈ slotsOf (pre ++ x :: post) ∨ (SlotMem.read r.1 l).syndrome = 0 := by
  have free := SlotMem.lowestFreeFrom_free m 0 wf
  have own := SlotMem.read_write_same (i := SlotMem.lowestFree m) (x := Slot.of x.record mask) wf
  have wf1 := SlotMem.wf_write (i := SlotMem.lowestFree m) (x := Slot.of x.record mask) wf
  have stored1 : Stored (SlotMem.write m (SlotMem.lowestFree m) (Slot.of x.record mask)) post :=
    ⟨fun w hw i hi => by
      have stands := stored.used w (by simp [hw]) i hi
      rwa [SlotMem.read_write_other]
      rintro rfl
      exact absurd (stands.1.symm.trans free) (by decide)⟩
  obtain ⟨absent, clean⟩ := place_none post _ wf1 stored1
  have placed := place_placed post _ none wf1 stored1
  rw [place_split hpre hx]
  refine ⟨absent, by simp [← (place_skip m mask pre hpre).2], ?first, fun l hl => ?others⟩
  case first =>
    rw [placed.keep _ (by rw [own]; rfl), own]
    rfl
  case others =>
    have split : slotsOf (pre ++ x :: post) = slotsOf pre ++ slotsOf post := by
      rw [slotsOf_append, slotsOf, slotsOf, List.filterMap_cons, hx]
      rfl
    rw [split, List.mem_append]
    rcases List.mem_append.1 hl with hl | hl
    · exact .inr (.inl (.inl hl))
    · rcases List.mem_cons.1 hl with hl | hl
      · exact .inl hl
      · exact .inr ((clean l hl).imp_left .inr)

/-- A commit that rewrites no record spends the mask on the first new one. -/
theorem Committable.mask_new {m : SlotMem} {ws : List WorkRec} (h : Committable m ws) (mask : Option Byte)
    (noneRewritten : ∀ x ∈ ws, ¬x.rewrites) (someNew : ∃ x ∈ ws, x.slot = none) :
    MaskSpent ws mask (committed m mask ws) := by
  have unwritten : rewrite m mask ws = (m, mask) := by
    have := rewrite_skip m mask ws
      (fun w hw => Bool.eq_false_iff.2 fun e => noneRewritten w hw (WorkRec.rewritten_iff.1 e)) []
    rwa [List.append_nil] at this
  have stored := h.stored mask
  rw [unwritten] at stored
  obtain ⟨pre, x, post, rfl, hx, hpre⟩ := split_first (fun w => w.slot = none) ws someNew
  obtain ⟨absent, first, spent, clean⟩ := place_mask h.wf stored hpre hx mask
  have whole : committed m mask (pre ++ x :: post) = place m mask (pre ++ x :: post) := by rw [committed, unwritten]
  rw [← whole] at absent first spent clean
  refine ⟨absent, pre.length, SlotMem.lowestFree m, .inr ⟨noneRewritten, .of_split hx hpre⟩, first, spent,
    fun l hl ne => ?_⟩
  rcases (clean l hl).resolve_left ne with hl | hl
  · rw [h.read_own mask hl, unwritten]
    exact h.clean l hl
  · exact hl

theorem Committable.mask_spent {m : SlotMem} {ws : List WorkRec} (h : Committable m ws) (mask : Option Byte)
    (someNew : ∃ x ∈ ws, x.slot = none) : MaskSpent ws mask (committed m mask ws) := by
  by_cases someRewritten : ∃ x ∈ ws, x.rewrites
  · exact h.mask_rewritten mask someRewritten
  · exact h.mask_new mask (fun x hx rewrites => someRewritten ⟨x, hx, rewrites⟩) someNew

end Sys2Proof.Machine
end

section
/-! SUPPORT. A capture by its reads, its bounds and its commit (R38–R41, R192–R195), and the proof of O55. -/

namespace Sys2Proof.Machine

/-! ## The reads -/

/-- What follows the reads of a capture of a journal `j` (R38): the spill at the first bound exceeded, else the commit. -/
def State.conclude (s : State) (k : CageId) (j : CageRecord) (w : Work) : State :=
  match w.spill? j.quota j.count s.store.freeCount with
  | some cause => s.spill k cause w.count
  | none => s.commit k w

/-- The working copy of a capture (R38). -/
def State.captureWork (s : State) (k : CageId) (sheet offset : Byte) (data : List Byte) : Work :=
  ((s.cage k).journal.work s.store.slots).enterAll (resolve s.profile.rules sheet offset data)

/-- The premises of a capture that has effect (R27, R28). -/
structure Journaled (s : State) (k : CageId) (sheet offset : Byte) (data : List Byte) : Prop where
  opened : (s.cage k).journal.state = .opened
  quota : 0 < (s.cage k).journal.quota
  pieces : resolve s.profile.rules sheet offset data ≠ []

theorem State.capture_eq {s : State} {k : CageId} {sheet offset : Byte} {data : List Byte}
    (h : Journaled s k sheet offset data) :
    s.capture k sheet offset data = let r := s.readSlots k (s.captureWork k sheet offset data).reads
      if r.2 then r.1.conclude k (s.cage k).journal (s.captureWork k sheet offset data) else r.1 := by
  unfold State.capture
  exact if_pos ⟨h.opened, h.quota, h.pieces⟩

theorem State.readSlots_append_clean {s : State} (k : CageId) {before : List Nat} (l : List Nat)
    (h : ∀ i ∈ before, s.clean i) : s.readSlots k (before ++ l) = s.readSlots k l := by
  induction before with
  | nil => rfl
  | cons i before ih =>
    rw [List.cons_append, State.readSlots, State.readSlot_clean s k i (h i List.mem_cons_self)]
    exact ih fun j hj => h j (List.mem_cons_of_mem i hj)

/-- What the slots hold after a CORRECTED read (R193). -/
theorem State.read_corrected {s : State} (wf : SlotMem.wf s.store.slots = true) (k : CageId) (st : CageState)
    (i l : Nat) : SlotMem.read (s.corrected k st i).store.slots l =
      if l = i then { SlotMem.read s.store.slots l with syndrome := 0 } else SlotMem.read s.store.slots l := by
  by_cases h : l = i
  · subst h
    rw [if_pos rfl]
    exact SlotMem.read_write_same wf
  · rw [if_neg h]
    exact SlotMem.read_write_other h

theorem CageRecord.work_congr (j : CageRecord) {m m' : SlotMem}
    (h : ∀ i, (SlotMem.read m' i).record = (SlotMem.read m i).record) : j.work m' = j.work m := by
  have same : workRec m' = workRec m := funext fun i => by rw [workRec, workRec, h]
  rw [CageRecord.work, CageRecord.work, same]

/-- A capture that meets a CORRECTED slot after clean ones goes on as if it had been CLEAN (R193). -/
theorem State.capture_correctable {s : State} {k : CageId} {sheet offset : Byte} {data : List Byte}
    (h : Journaled s k sheet offset data) (wf : SlotMem.wf s.store.slots = true) {before after : List Nat} {i : Nat}
    (reads : (s.captureWork k sheet offset data).reads = before ++ i :: after) (clean : ∀ m ∈ before, s.clean m)
    (correctable : s.correctable i) :
    s.capture k sheet offset data =
      (s.corrected k (s.cage k).seq.shown i).capture k sheet offset data := by
  have held := State.read_corrected wf k (s.cage k).seq.shown i
  generalize hu : s.corrected k (s.cage k).seq.shown i = u at held ⊢
  have cage : u.cage k = s.cage k := by rw [← hu]; rfl
  have profile : u.profile = s.profile := by rw [← hu]; rfl
  have journaled : Journaled u k sheet offset data :=
    ⟨by rw [cage]; exact h.opened, by rw [cage]; exact h.quota, by rw [profile]; exact h.pieces⟩
  have work : u.captureWork k sheet offset data = s.captureWork k sheet offset data := by
    rw [State.captureWork, State.captureWork, cage, profile, CageRecord.work_congr _ fun l => ?_]
    rw [held]
    split <;> rfl
  have cleaned : ∀ m ∈ before ++ [i], u.clean m := fun m hm => by
    rw [State.clean, held]
    split
    · rfl
    · rename_i ne
      exact clean m ((List.mem_append.1 hm).resolve_right fun e => ne (List.mem_singleton.1 e))
  have read : s.readSlots k (before ++ i :: after) = u.readSlots k (before ++ i :: after) := by
    rw [State.readSlots_append_clean k _ clean, State.readSlots, State.readSlot_correctable s k i correctable, hu,
      List.append_cons, State.readSlots_append_clean k _ cleaned]
    rfl
  rw [State.capture_eq h, State.capture_eq journaled, work, cage]
  dsimp only
  rw [reads, read]

/-- A capture that meets an UNCORRECTABLE slot after clean ones is abandoned there (R41, R194). -/
theorem State.capture_uncorrectable {s : State} {k : CageId} {sheet offset : Byte} {data : List Byte}
    (h : Journaled s k sheet offset data) {before after : List Nat} {i : Nat}
    (reads : (s.captureWork k sheet offset data).reads = before ++ i :: after) (clean : ∀ m ∈ before, s.clean m)
    (uncorrectable : s.uncorrectable i) :
    s.capture k sheet offset data =
      (s.takeFault (s.slotFault .uncorrectable k (s.cage k).seq.shown i)).modJournal k
        fun j => { j with state := .damaged } := by
  rw [State.capture_eq h]
  dsimp only
  rw [reads, State.readSlots_append_clean k _ clean, State.readSlots,
    State.readSlot_uncorrectable s k i uncorrectable]
  rfl

/-- The working copy of a capture is one of the journal, and its reads are of the journal's slots. -/
theorem State.captureWork_workOf (s : State) {k : CageId} (sheet offset : Byte) (data : List Byte)
    (nodup : (s.cage k).journal.slots.Nodup) :
    WorkOf s.store.slots (s.cage k).journal.slots (s.captureWork k sheet offset data).records ∧
    ∀ i ∈ (s.captureWork k sheet offset data).reads, i ∈ (s.cage k).journal.slots :=
  WorkOf.enterAll (resolve s.profile.rules sheet offset data) _
    (WorkOf.start (s.cage k).journal s.store.slots nodup) fun _ hi => absurd hi List.not_mem_nil

/-- With the slots of the journal clean a capture comes to its bounds at once. -/
theorem State.capture_clean {s : State} {k : CageId} {sheet offset : Byte} {data : List Byte}
    (h : Journaled s k sheet offset data) (nodup : (s.cage k).journal.slots.Nodup)
    (clean : ∀ i ∈ (s.cage k).journal.slots, s.clean i) :
    s.capture k sheet offset data = s.conclude k (s.cage k).journal (s.captureWork k sheet offset data) := by
  have own := (s.captureWork_workOf sheet offset data nodup).2
  rw [State.capture_eq h]
  dsimp only
  rw [State.readSlots_clean s k _ fun i hi => clean i (own i hi)]
  exact if_pos rfl

/-! ## The spill -/

/-- The refusal of a capture queues SPILL, logs it and makes the journal SPILLED (R40). -/
theorem State.spill_eq (s : State) (k : CageId) (cause : SpillCause) (n : Nat) :
    s.spill k cause n =
      ((s.submit (spillFrame k cause n)).takeFault (s.faultEntry .spill (some k) cause.code n)).modJournal k
        fun j => { j with state := .spilled } := by
  have entry : ((s.modJournal k fun j => { j with state := .spilled }).submit (spillFrame k cause n)).faultEntry
      .spill (some k) cause.code n = s.faultEntry .spill (some k) cause.code n := by
    simp [State.faultEntry]
  unfold State.spill State.logFault
  rw [entry]
  rfl

/-! ## The commit -/

/-- The slots of the records that left the journal, freed (R39). -/
def Work.freed (w : Work) (before : List Nat) (m : SlotMem) : SlotMem := (w.leaving before).foldl SlotMem.free m

theorem Work.read_freed_staying {w : Work} {before : List Nat} (m : SlotMem) {i : Nat} (h : i ∈ slotsOf w.records) :
    SlotMem.read (w.freed before m) i = SlotMem.read m i := by
  obtain ⟨x, hx, slot⟩ := mem_slotsOf.1 h
  refine SlotMem.read_foldl_free i _ m fun left => ?_
  have gone := (List.mem_filter.1 left).2
  rw [Bool.not_eq_true', List.any_eq_false] at gone
  exact gone x hx (decide_eq_true slot)

theorem Work.read_freed_foreign {w : Work} {before : List Nat} (m : SlotMem) {i : Nat} (h : i ∉ before) :
    SlotMem.read (w.freed before m) i = SlotMem.read m i :=
  SlotMem.read_foldl_free i _ m fun left => h (List.mem_filter.1 left).1

/-- The working copy of a journal with its slots in use and clean can be committed. -/
theorem WorkOf.committable {m : SlotMem} {before : List Nat} {w : Work} (h : WorkOf m before w.records)
    (wf : SlotMem.wf m = true)
    (sound : ∀ i ∈ before, (SlotMem.read m i).used = true ∧ (SlotMem.read m i).syndrome = 0) :
    Committable (w.freed before m) w.records where
  wf := SlotMem.wf_foldl_free _ wf
  nodup := h.nodup
  used := fun i hi => by
    rw [Work.read_freed_staying m hi]
    exact (sound i (h.sub i hi)).1
  clean := fun i hi => by
    rw [Work.read_freed_staying m hi]
    exact (sound i (h.sub i hi)).2
  same := fun x hx i slot changed => by
    rw [Work.read_freed_staying m (mem_slotsOf.2 ⟨x, hx, slot⟩)]
    exact h.same x hx i slot changed

/-- What a commit makes of the memory and the pending mask (R39, R195). -/
def Work.committed (w : Work) (j : CageRecord) (m : SlotMem) : SlotMem × Option Byte × List Nat :=
  Machine.committed (w.freed j.slots m) j.mask w.records

/-- The slots of another journal are as they were, and the committed journal holds none of them. -/
theorem Work.committed_foreign {w : Work} {j : CageRecord} {m : SlotMem} (h : WorkOf m j.slots w.records)
    (ready : Committable (w.freed j.slots m) w.records) {i : Nat} (foreign : i ∉ j.slots)
    (used : (SlotMem.read m i).used = true) : i ∉ (w.committed j m).2.2 ∧
      SlotMem.read (w.committed j m).1 i = SlotMem.read m i := by
  have notOwn : i ∉ slotsOf w.records := fun own => foreign (h.sub i own)
  have same : SlotMem.read (rewrite (w.freed j.slots m) j.mask w.records).1 i = SlotMem.read m i := by
    rw [rewrite_other _ _ _ _ notOwn, Work.read_freed_foreign m foreign]
  have placed := ready.placed j.mask
  refine ⟨fun held => ?_, (placed.keep i (by rw [same]; exact used)).trans same⟩
  rcases placed.src i held with own | free
  · exact notOwn own
  · rw [same, used] at free
    cases free

theorem place_length : ∀ (ws : List WorkRec) (m : SlotMem) (mask : Option Byte),
    (place m mask ws).2.2.length = ws.length
  | [], _, _ => rfl
  | w :: ws, m, mask => by
    unfold place
    split
    · exact congrArg Nat.succ (place_length ws m mask)
    · exact congrArg Nat.succ (place_length ws _ none)

theorem placeAll_lengths : ∀ (segs : List (List WorkRec)) (m : SlotMem) (mask : Option Byte),
    (placeAll m mask segs).2.2.map List.length = segs.map List.length
  | [], _, _ => rfl
  | seg :: segs, m, mask => by
    unfold placeAll
    rw [List.map_cons, List.map_cons, place_length, placeAll_lengths segs]

/-- The segments of a working copy are placed as its records are. -/
theorem Work.place_records (w : Work) (m : SlotMem) (mask : Option Byte) :
    let r := placeAll m mask w.closed
    let o := place r.1 r.2.1 w.opened
    place m mask w.records = (o.1, o.2.1, r.2.2.flatten ++ o.2.2) := by
  rw [Work.records, place_append, ← placeAll_flatten]

/-- Everything a commit does: the slots of the records go, in order, to the segments of the working copy (R28, R39,
R195). -/
theorem State.commit_frame (s : State) (k : CageId) {w : Work} (someRecord : 0 < w.count) :
    let j := (s.cage k).journal
    let r := w.committed j s.store.slots
    ∃ (closed : List (List Nat)) (opened : List Nat), closed.flatten ++ opened = r.2.2 ∧
      (closed ++ [opened]).map List.length = (w.closed ++ [w.opened]).map List.length ∧
      cageBecomes k { s.cage k with journal := { j with
          closed := closed, opened := opened, mask := r.2.1, identity := j.identity.or (s.cage k).seq.lastIdentity } }
        (s.modSlots fun _ => r.1) (s.commit k w) := by
  intro j r
  let m := rewrite (w.freed j.slots s.store.slots) j.mask w.records
  let c := placeAll m.1 m.2 w.closed
  have placed : r = _ := w.place_records m.1 m.2
  refine ⟨c.2.2, (place c.1 c.2.1 w.opened).2.2, (congrArg (fun r => r.2.2) placed).symm, ?lengths, ?frame⟩
  case lengths =>
    rw [List.map_append, List.map_append, placeAll_lengths, List.map_singleton, List.map_singleton, place_length]
  case frame =>
    rw [placed]
    refine cageBecomes_modCage ?_
    dsimp only [State.modSlots_cage]
    rw [if_pos someRecord]
    cases (s.cage k).journal.identity <;> rfl

/-- What a commit of the working copy `w` to the journal of cage `k` leads to (R28, R39, R195). -/
structure CommitOf (k : CageId) (w : Work) (s t : State) : Prop where
  records : (t.cage k).journal.slots.map t.recordIn = w.records.map WorkRec.record
  segments : (t.cage k).journal.segments.map List.length = (w.closed ++ [w.opened]).map List.length
  nodup : (t.cage k).journal.slots.Nodup
  used : ∀ i ∈ (t.cage k).journal.slots, (SlotMem.read t.store.slots i).used = true
  foreign : ∀ i : Nat, i ∉ (s.cage k).journal.slots → (SlotMem.read s.store.slots i).used = true →
    i ∉ (t.cage k).journal.slots ∧ SlotMem.read t.store.slots i = SlotMem.read s.store.slots i
  mask : ∃ n i, FirstWritten w.records n ∧ (t.cage k).journal.slots[n]? = some i ∧
    MaskOn t.store.slots (t.cage k).journal.slots (s.cage k).journal.mask i
  journal : (t.cage k).journal = { (s.cage k).journal with
    closed := (t.cage k).journal.closed, opened := (t.cage k).journal.opened, mask := none
    identity := (s.cage k).journal.identity.or (s.cage k).seq.lastIdentity }
  check : t.store.checkValue = s.store.checkValue
  frame : cageBecomes k { s.cage k with journal := (t.cage k).journal } { s with store := t.store } t

/-- A commit of a working copy that holds a new record, by what `committed` makes of the memory. -/
theorem State.commit_commitOf {s : State} {k : CageId} {w : Work}
    (workOf : WorkOf s.store.slots (s.cage k).journal.slots w.records)
    (ready : Committable (w.freed (s.cage k).journal.slots s.store.slots) w.records)
    (someNew : ∃ x ∈ w.records, x.slot = none) : CommitOf k w s (s.commit k w) := by
  have ⟨x, inWork, _⟩ := someNew
  obtain ⟨closed, opened, flat, lengths, frame⟩ := s.commit_frame k (List.length_pos_of_mem inWork)
  have placed := ready.placed (s.cage k).journal.mask
  have spent : MaskSpent w.records (s.cage k).journal.mask (w.committed (s.cage k).journal s.store.slots) :=
    ready.mask_spent _ someNew
  obtain ⟨absent, n, i, first, place, maskOn⟩ := spent
  generalize s.commit k w = t at frame ⊢
  have journal : (t.cage k).journal = _ := congrArg Cage.journal frame.1
  have store : t.store = { s.store with slots := (w.committed (s.cage k).journal s.store.slots).1 } := frame.2.2.2.2.2.1
  have slots : (t.cage k).journal.slots = (w.committed (s.cage k).journal s.store.slots).2.2 := by
    rw [journal, ← flat]
    simp [CageRecord.slots, CageRecord.segments]
  constructor
  case records =>
    rw [slots]
    refine Eq.trans (List.map_congr_left fun l _ => ?_) placed.recs
    rw [State.recordIn, store]
    rfl
  case segments =>
    rw [← lengths, journal]
    rfl
  case nodup =>
    rw [slots]
    exact placed.nodup ready.nodup
  case used =>
    rw [slots, store]
    exact placed.inuse
  case foreign =>
    rw [slots, store]
    exact fun l => Work.committed_foreign workOf ready
  case mask =>
    rw [slots, store]
    exact ⟨n, i, first, place, maskOn⟩
  case journal =>
    rw [journal, absent]
  case check => rw [store]
  case frame =>
    rw [store, journal]
    exact frame

theorem State.conclude_fits {s : State} {k : CageId} {j : CageRecord} {w : Work}
    (h : w.spill? j.quota j.count s.store.freeCount = none) : s.conclude k j w = s.commit k w := by
  rw [State.conclude, h]

theorem State.conclude_exceeds {s : State} {k : CageId} {j : CageRecord} {w : Work} {cause : SpillCause}
    (h : w.spill? j.quota j.count s.store.freeCount = some cause) : s.conclude k j w = s.spill k cause w.count := by
  rw [State.conclude, h]

/-- Settles O55: the reads by the first slot that is not clean, then the bounds, then the commit by `CommitOf`. -/
theorem captureCommitsOrSpills : Obligations.CaptureCommitsOrSpills := by
  unfold Obligations.CaptureCommitsOrSpills
  intro k sheet offset data s j w shown opened quota pieces wf t
  have journaled : Journaled s k sheet offset data := ⟨opened, quota, pieces⟩
  refine ⟨fun before after i reads clean => ⟨State.capture_correctable journaled wf reads clean,
    fun uncorrectable => ?abandoned⟩, fun nodup sound => ?bounds⟩
  case abandoned =>
    have left : t = _ := State.capture_uncorrectable journaled reads clean uncorrectable
    rw [left]
    exact cageBecomes_modCage rfl
  case bounds =>
    have concluded : t = s.conclude k j w := State.capture_clean journaled nodup fun i hi => (sound i hi).2
    refine ⟨fun fits => ?commit, fun cause exceeds => ?spill⟩
    case spill =>
      rw [concluded, State.conclude_exceeds exceeds, State.spill_eq]
      exact cageBecomes_modCage rfl
    case commit =>
      have workOf : WorkOf s.store.slots j.slots w.records := (s.captureWork_workOf sheet offset data nodup).1
      have done := State.commit_commitOf workOf (workOf.committable wf sound) (Work.enterAll_new _ _ pieces)
      rw [← State.conclude_fits fits, ← concluded] at done
      obtain ⟨n, i, first, place, maskOn⟩ := done.mask
      exact ⟨done.records, done.segments, done.nodup, done.used, done.foreign,
        ⟨n, i, first, place, maskOn.first, maskOn.others⟩, done.journal, done.check, done.frame⟩

end Sys2Proof.Machine
end

section
/-! SUPPORT. The output levels through every step, and the proof of O59. -/

namespace Sys2Proof.Machine

/-- The cage of a state whose cages have all been changed alike. -/
theorem State.cage_mapCages (s : State) (f : Cage → Cage) (k : CageId) :
    State.cage { s with cages := s.cages.map f } k = f (s.cage k) := by
  simp [State.cage]

/-- The output levels go from `s` to `t`. -/
def KeepsOutputs (s t : State) : Prop := s.outputsSound → t.outputsSound

/-- An operation for cage `k` keeps its levels, leaves other cages alone, or admits them with sound levels (R53, R65). -/
theorem Keeps.keepsOutputs {k : CageId} {s t : State} (h : Keeps k s t) : KeepsOutputs s t := by
  intro sound j
  by_cases other : j = k
  · subst other
    exact h.outputs (sound j)
  · rcases h.others j other with same | ⟨_, admitted⟩
    · rw [same]
      exact sound j
    · exact admitted.outputsSound

theorem KeepsOutputs.refl (s : State) : KeepsOutputs s s := id

theorem KeepsOutputs.trans {s t u : State} (a : KeepsOutputs s t) (b : KeepsOutputs t u) : KeepsOutputs s u :=
  fun sound => b (a sound)

/-- A change of every cage that keeps sound levels sound. -/
theorem KeepsOutputs.of_cages {s t : State} (h : ∀ k : CageId, (s.cage k).outputsSound → (t.cage k).outputsSound) :
    KeepsOutputs s t := fun sound k => h k (sound k)

/-- A change outside the cages. -/
theorem KeepsOutputs.congr {s t u : State} (h : KeepsOutputs s t) (cages : u.cages = t.cages) : KeepsOutputs s u :=
  h.trans (.of_cages fun k sound => by rw [State.cage_congr cages k]; exact sound)

/-- A change of every cage that leaves the levels alone. -/
theorem KeepsOutputs.quiet {s t u : State} (h : KeepsOutputs s t) (levels : ∀ k, (u.cage k).levels = (t.cage k).levels) :
    KeepsOutputs s u := h.trans (.of_cages fun k => Cage.outputsSound_of_levels (levels k))

theorem KeepsOutputs.mapCages {s t u : State} (h : KeepsOutputs s t) {f : Cage → Cage} (cages : u.cages = t.cages.map f)
    (levels : ∀ c, (f c).levels = c.levels) : KeepsOutputs s u :=
  h.quiet fun k => by rw [State.cage_congr (t := u) (s := { t with cages := t.cages.map f }) cages k,
    State.cage_mapCages]; exact levels _

theorem KeepsOutputs.submit {s t : State} (h : KeepsOutputs s t) {f : Frame} : KeepsOutputs s (t.submit f) := h.congr rfl

theorem KeepsOutputs.foldl {α : Type} {f : State → α → State} (each : ∀ t a, KeepsOutputs t (f t a)) (l : List α)
    {s t : State} (h : KeepsOutputs s t) : KeepsOutputs s (l.foldl f t) := by
  induction l generalizing t with
  | nil => exact h
  | cons a l ih => exact ih (h.trans (each t a))

/-! ## Line reset (R77) -/

/-- At the assertion of RESET_n PINT_n is deasserted and the lines are held. -/
theorem Cage.lineAssert_outputsSound {c : Cage} (h : c.outputsSound) : c.lineAssert.outputsSound := by
  obtain ⟨held, waits, _⟩ := h
  exact ⟨held, waits, fun asserted => absurd asserted Bool.false_ne_true⟩

/-- At the release every cage is in EMPTY, with MRST_n and MLPW asserted unless it is ADOPT-pending. -/
theorem Cage.lineRelease_outputsSound (c : Cage) : c.lineRelease.outputsSound := by
  refine ⟨fun _ free => ?_, fun _ => rfl, fun asserted => absurd asserted Bool.false_ne_true⟩
  have notAdopted : c.seq.adopts c.mpres = false := free
  simp [Cage.lineRelease, Seq.lineRelease, notAdopted]

/-! ## The ends of the loads (R78, R201, R203) -/

theorem KeepsOutputs.logFinding {s t : State} (h : KeepsOutputs s t) {trig : Trigger} {f : Finding} :
    KeepsOutputs s (t.logFinding trig f) := by
  cases f with
  | bad cause => exact h.congr rfl
  | absent => exact h
  | good => exact h

theorem KeepsOutputs.handOn {s t : State} (h : KeepsOutputs s t) {img : List Byte} : KeepsOutputs s (t.handOn img) := by
  unfold State.handOn
  refine KeepsOutputs.trans ?_ (Keeps.refl 0 _).unitTests.keepsOutputs
  exact h.mapCages rfl fun _ => rfl

theorem State.endReload_keepsOutputs (s : State) (img : List Byte) : KeepsOutputs s (s.endReload img) := by
  unfold State.endReload
  have closed (n : Nat) : KeepsOutputs s { s with loader :=
      { s.loader with load := none, flash := s.loader.flash.ended n } } := (KeepsOutputs.refl s).congr rfl
  cases finding img with
  | good => exact (closed _).handOn.submit
  | bad cause => exact (closed _).logFinding.submit
  | absent => exact (closed _).submit

theorem KeepsOutputs.mapJournals {s t : State} (h : KeepsOutputs s t) {f : CageId → CageRecord → CageRecord} :
    KeepsOutputs s (t.mapJournals f) :=
  h.quiet fun k => by simp [State.mapJournals, State.cage, Cage.levels]

theorem KeepsOutputs.freshJournals {s t : State} (h : KeepsOutputs s t) {p : Profile} {check : CheckValue} :
    KeepsOutputs s (t.freshJournals p check) := by
  unfold State.freshJournals
  refine KeepsOutputs.congr (t := t.mapJournals fun k _ => CageRecord.fresh p.quotas[k]) h.mapJournals ?_
  simp only

theorem KeepsOutputs.compareJournals {s t : State} (h : KeepsOutputs s t) {p : Profile} {check : CheckValue} :
    KeepsOutputs s (t.compareJournals p check).1 := by
  unfold State.compareJournals
  split
  · dsimp only
    unfold State.keepJournals
    exact h.mapJournals
  · exact h.freshJournals

theorem KeepsOutputs.install {s t : State} (h : KeepsOutputs s t) {p : Profile} {o : LoadOutcome} {check : CheckValue} :
    KeepsOutputs s (t.install p o check) := h.mapCages rfl fun _ => rfl

theorem KeepsOutputs.intoService {s t : State} (h : KeepsOutputs s t) {policy : PresencePolicy} :
    KeepsOutputs s (t.intoService policy) := h.mapCages rfl fun _ => rfl

/-- An ADOPT-pending cage has PINT_n deasserted, since its state is still EMPTY, and ADOPT holds the lines as they are. -/
theorem Cage.outputsSound_adopt {c : Cage} (h : c.outputsSound) (waits : c.seq.adoptPending = true) : ({ c with
    seq := { c.seq with state := .adopt, adoptPending := false, bootTime := 0, powerTime := 0 } } : Cage).outputsSound := by
  obtain ⟨_, waiting, follows⟩ := h
  have empty := waiting waits
  refine ⟨fun st => by simp at st, fun pending => absurd pending Bool.false_ne_true, fun asserted => ?_⟩
  have relays := (follows asserted).1
  rw [empty] at relays
  exact absurd relays Bool.false_ne_true

theorem State.leaveWaiting_keepsOutputs (s : State) (k : CageId) : KeepsOutputs s (s.leaveWaiting k) := by
  unfold State.leaveWaiting
  dsimp only
  split
  · rename_i waits
    exact ((Keeps.refl k s).modCage fun sound => Cage.outputsSound_adopt sound waits).startPhase.keepsOutputs
  · split
    · exact (Keeps.refl k s).toSettle.keepsOutputs
    · exact .refl s

theorem State.endResetLoad_keepsOutputs (s : State) (t : Trigger) (img : List Byte) :
    KeepsOutputs s (s.endResetLoad t img) := by
  rw [State.endResetLoad_eq]
  refine .foldl State.leaveWaiting_keepsOutputs _ (KeepsOutputs.intoService ?_)
  have ported : KeepsOutputs s (s.portEnded img) := (KeepsOutputs.refl s).congr rfl
  exact ported.compareJournals.install.logFinding.submit

/-! ## Every step -/

/-- A meaning that answers only next states with the output levels kept. -/
def OutputsNext (s : State) (r : Result) : Prop := ∀ t : State, r = .next t → KeepsOutputs s t

theorem KeepsOutputs.next {s t : State} (h : KeepsOutputs s t) : OutputsNext s (.next t) := by
  intro u answered
  rw [← Host.Outcome.next.inj answered]
  exact h

theorem OutputsNext.same (s : State) : OutputsNext s (.next s) := (KeepsOutputs.refl s).next

/-- Every cage at its power-on values is in EMPTY with both lines asserted (R50). -/
theorem execPowerOn_outputs (s : State) : OutputsNext s (execPowerOn s) :=
  KeepsOutputs.next <| .of_cages fun k _ => by
    refine Cage.outputsSound_of_levels (c := (State.powerOn (s.cages.map fun c => (c.mpres, c.mint))).cage k) rfl ?_
    rw [State.powerOn_cage]
    exact Cage.powerOn_outputsSound _ _

theorem execLineResetAssert_outputs (s : State) : OutputsNext s (execLineResetAssert s) := by
  unfold execLineResetAssert
  split
  · exact .same s
  · refine KeepsOutputs.next (KeepsOutputs.congr (t := { s with cages := s.cages.map Cage.lineAssert }) ?_ rfl)
    exact .of_cages fun k sound => by rw [State.cage_mapCages]; exact Cage.lineAssert_outputsSound sound

theorem execLineResetRelease_outputs (s : State) : OutputsNext s (execLineResetRelease s) := by
  unfold execLineResetRelease
  split
  · refine KeepsOutputs.next (KeepsOutputs.congr (t := { s with cages := s.cages.map Cage.lineRelease }) ?_ rfl)
    exact .of_cages fun k _ => by rw [State.cage_mapCages]; exact Cage.lineRelease_outputsSound _
  · exact .same s

theorem execResetProfileLoadEnd_outputs (flash : List Byte) (s : State) :
    OutputsNext s (execResetProfileLoadEnd flash s) := by
  unfold execResetProfileLoadEnd
  split
  · exact (s.endResetLoad_keepsOutputs .powerOn flash).next
  · exact (s.endResetLoad_keepsOutputs .lineReset flash).next
  · exact .same s

theorem execReloadLoadEnd_outputs (flash : List Byte) (s : State) : OutputsNext s (execReloadLoadEnd flash s) := by
  unfold execReloadLoadEnd
  split
  · exact (s.endReload_keepsOutputs flash).next
  · exact .same s

theorem execPendingBudgetAdopt_outputs (s : State) : OutputsNext s (execPendingBudgetAdopt s) := by
  unfold execPendingBudgetAdopt
  split
  · exact (Keeps.refl 0 s).unitTests.keepsOutputs.next
  · exact .same s

theorem execChannelGrant_outputs (s : State) : OutputsNext s (execChannelGrant s) := by
  unfold execChannelGrant
  split
  · rename_i k rest c _ _
    exact (Keeps.refl k s).setStaged.grant.keepsOutputs.next
  · exact .same s

theorem execNoticeFrameSent_outputs (s : State) : OutputsNext s (execNoticeFrameSent s) :=
  KeepsOutputs.next ((KeepsOutputs.refl s).congr rfl)

theorem exec_outputs_partWide {i : Instr} (partWide : Instr.cage? i = none) (s : State) : OutputsNext s (exec i s) := by
  cases i <;> cases partWide
  case powerOn => exact execPowerOn_outputs s
  case lineResetAssert => exact execLineResetAssert_outputs s
  case lineResetRelease => exact execLineResetRelease_outputs s
  case resetProfileLoadEnd flash => exact execResetProfileLoadEnd_outputs flash s
  case reloadLoadEnd flash => exact execReloadLoadEnd_outputs flash s
  case pendingBudgetAdopt => exact execPendingBudgetAdopt_outputs s
  case admission => exact (Keeps.refl 0 s).checkHead.keepsOutputs.next
  case channelGrant => exact execChannelGrant_outputs s
  case noticeFrameSent => exact execNoticeFrameSent_outputs s

/-- Every command keeps the output levels: a cage's by what it keeps, the part's own one by one. -/
theorem exec_outputs (i : Instr) (s : State) : OutputsNext s (exec i s) := by
  cases addressed : Instr.cage? i with
  | some k =>
    obtain ⟨t, answered, kept⟩ := exec_keepsNext addressed s
    rw [answered]
    exact kept.keepsOutputs.next
  | none => exact exec_outputs_partWide addressed s

/-- A millisecond changes the timers alone (R81, R94). -/
theorem State.tick_keepsOutputs (s : State) : KeepsOutputs s s.tick := by
  unfold State.tick
  dsimp only
  split
  · exact (KeepsOutputs.refl s).congr rfl
  · exact (KeepsOutputs.refl s).mapCages rfl fun _ => rfl

theorem State.idle_outputs (s : State) : OutputsNext s s.idle := by
  unfold State.idle
  split
  · exact exec_outputs .pendingBudgetAdopt s
  · split
    · exact exec_outputs .admission s
    · split
      · exact exec_outputs .channelGrant s
      · exact s.tick_keepsOutputs.next

/-- Settles O59: a command by `exec_outputs`, an empty queue by `State.idle_outputs`. -/
theorem stepKeepsOutputLevels : Obligations.StepKeepsOutputLevels := by
  unfold Obligations.StepKeepsOutputLevels
  intro s t sound stepped
  unfold step at stepped
  split at stepped
  · rename_i c rest _
    exact exec_outputs c { s with pending := rest } t stepped sound
  · exact s.idle_outputs t stepped sound

end Sys2Proof.Machine
end

section
/-! SUPPORT. The answers of an attempt's transactions, one lemma per answer (R58, R84), and the proof of O19. -/

namespace Sys2Proof.Machine

/-- A combined read whose pointer is written goes on with its read (R14). -/
theorem AttemptRead.next_pointed (x : AttemptRead) (m : ModCursor) : x.access.next m true = .read x.length := by
  unfold AttemptRead.access Access.next
  cases x.area <;> rfl

/-- A read that is TAKEN gives its bytes and moves the pointer past them (R10). -/
theorem AttemptRead.run_taken (x : AttemptRead) (m : ModCursor) (bs : List Byte) (rs : List Response) :
    x.access.run m true false (.taken bs :: rs) =
      { modc := m.step x.length, ended := .done (readBytes x.length bs), rest := rs, progress := false } := by
  rw [Access.run, AttemptRead.next_pointed]
  rfl

/-- The byte of a poll is tested under the mask (R56, R57). -/
theorem runAttempt_poll (m : ModCursor) {a : Attempt} {x : AttemptRead} {mask expected : Byte} (xs : List AttemptRead)
    (bs : List Byte) (rs : List Response) (pointed : a.pointed = true) (purpose : x.purpose = .poll mask expected) :
    runAttempt m a (x :: xs) (.taken bs :: rs) =
      if (readBytes x.length bs).headD 0xFF &&& mask = expected then
        runAttempt (m.step x.length) { a with matched := true, pointed := false } xs rs
      else (m.step x.length, .notYet false) := by
  rw [runAttempt, pointed]
  simp only [AttemptRead.run_taken, purpose, pollMatches, decide_eq_true_eq]

/-- The bytes of an identity field are kept in field order (R60). -/
theorem runAttempt_field (m : ModCursor) {a : Attempt} {x : AttemptRead} (xs : List AttemptRead) (bs : List Byte)
    (rs : List Response) (pointed : a.pointed = true) (purpose : x.purpose = .field) :
    runAttempt m a (x :: xs) (.taken bs :: rs) =
      runAttempt (m.step x.length) { a with identity := a.identity ++ readBytes x.length bs, pointed := false } xs rs := by
  rw [runAttempt, pointed]
  simp only [AttemptRead.run_taken, purpose]

/-- The power-class byte is kept (R58). -/
theorem runAttempt_cls (m : ModCursor) {a : Attempt} {x : AttemptRead} (xs : List AttemptRead) (bs : List Byte)
    (rs : List Response) (pointed : a.pointed = true) (purpose : x.purpose = .cls) :
    runAttempt m a (x :: xs) (.taken bs :: rs) =
      runAttempt (m.step x.length) { a with classByte := (readBytes x.length bs).headD 0xFF, pointed := false } xs rs := by
  rw [runAttempt, pointed]
  simp only [AttemptRead.run_taken, purpose]

/-- Settles O19, by the answer and, where it is TAKEN, by the purpose of the read. -/
theorem answersEndAttempt : Obligations.AnswersEndAttempt := by
  unfold Obligations.AnswersEndAttempt
  intro m a x xs rs bs
  refine ⟨rfl, rfl, ?busy, ?held, fun pointed => ⟨fun _ _ purpose => runAttempt_poll m xs bs rs pointed purpose,
    runAttempt_field m xs bs rs pointed, runAttempt_cls m xs bs rs pointed⟩⟩
  case busy =>
    rw [runAttempt]
    simp only [Access.run_busy]
  case held =>
    rw [runAttempt]
    simp only [Access.run_held]

end Sys2Proof.Machine
end

section
/-! SUPPORT. The part at power-on and through a line reset (R50, R77), and the proofs of O5, O6 and O7. -/

namespace Sys2Proof.Machine

/-- Settles O5: the power-on values do not speak of the pins, the loader or RESET_n. -/
theorem powerOnRestarts : Obligations.PowerOnRestarts := by
  unfold Obligations.PowerOnRestarts
  intro s
  refine ⟨_, rfl, State.powerOn_poweredOn _, fun k => ?pins, ?load, ?loaded, ?flash, rfl, rfl⟩
  case pins =>
    show ((State.powerOn _).cage k).mpres = _ ∧ ((State.powerOn _).cage k).mint = _
    rw [State.powerOn_cage]
    simp [State.cage, Cage.powerOn]
  all_goals
    dsimp only
    cases s.lineReset <;> rfl

theorem State.channel_mapChannels (s : State) (f : Channel → Channel) (c : Fin 4) :
    ({ s with channels := s.channels.map f } : State).channels[c] = f s.channels[c] := by
  simp

/-- Settles O6: the effect on every cage and every channel is `Cage.lineAssert` and a fresh channel. -/
theorem lineResetAssertAbandons : Obligations.LineResetAssertAbandons := by
  unfold Obligations.LineResetAssertAbandons
  intro s
  refine ⟨fun asserted => ?same, fun released => ?abandons⟩
  case same =>
    simp only [exec, execLineResetAssert, asserted, if_true]
  case abandons =>
    simp only [exec, execLineResetAssert, released]
    refine ⟨_, rfl, fun k => ?cages, fun c => ?channels, rfl, rfl, rfl, rfl, rfl, rfl, rfl, rfl, rfl⟩
    case cages => exact s.cage_mapCages Cage.lineAssert k
    case channels => exact s.channel_mapChannels (fun h => Channel.fresh h.active) c

/-- A cage becomes ADOPT-pending at the release where its module is present and it did not wait in EMPTY (R77). -/
theorem Seq.adopts_iff (q : Seq) (mpres : Bool) :
    q.adopts mpres = true ↔ mpres = true ∧ (q.adoptPending = true ∨ q.state ≠ .empty) := by
  simp [Seq.adopts]

/-- The lines at the release: held as they stand by an ADOPT-pending cage, else those of EMPTY (R51, R77). -/
theorem Seq.lineRelease_lines (q : Seq) (mpres : Bool) :
    if mpres = true ∧ (q.adoptPending = true ∨ q.state ≠ .empty) then
      (q.lineRelease mpres).adoptPending = true ∧ (q.lineRelease mpres).mrst = q.mrst ∧
      (q.lineRelease mpres).mlpw = q.mlpw ∧ (q.lineRelease mpres).ppres = q.ppres
    else (q.lineRelease mpres).adoptPending = false ∧ (q.lineRelease mpres).mrst = true ∧
      (q.lineRelease mpres).mlpw = true ∧ (q.lineRelease mpres).ppres = false := by
  split
  · rename_i held
    simp [Seq.lineRelease, (q.adopts_iff mpres).mpr held]
  · rename_i freed
    simp [Seq.lineRelease, Bool.eq_false_iff.mpr (mt (q.adopts_iff mpres).mp freed)]

/-- Settles O7: the effect on every cage is `Cage.lineRelease`. -/
theorem lineResetReleaseAdopts : Obligations.LineResetReleaseAdopts := by
  unfold Obligations.LineResetReleaseAdopts
  intro s asserted
  simp only [exec, execLineResetRelease, asserted, if_true]
  refine ⟨_, rfl, fun k => ?cages, rfl, rfl, rfl, rfl, rfl, rfl, rfl, rfl, rfl, rfl⟩
  have released : State.cage { s with
      cages := s.cages.map Cage.lineRelease, loader := s.loader.begin .lineReset, lineReset := false } k =
      (s.cage k).lineRelease := by simp [State.cage]
  rw [released]
  exact ⟨⟨rfl, rfl, rfl⟩, ⟨rfl, rfl, rfl, rfl, rfl, rfl, rfl, rfl, rfl⟩, Seq.lineRelease_lines _ _, rfl,
    ⟨rfl, rfl, rfl, rfl, rfl⟩, rfl, rfl⟩

end Sys2Proof.Machine
end

section
/-! SUPPORT. Presence, removal outside a cage's service, and interrupts, and the proofs of O13, O16 and O17. -/

namespace Sys2Proof.Machine

theorem exec_presenceAsserted_settles {s : State} {k : CageId} (absent : (s.cage k).mpres = false)
    (inService : s.inService = true) (empty : (s.cage k).seq.state = .empty) :
    exec (.presenceAsserted k) s = .next ((s.modCage k fun c => { c with mpres := true }).toSettle k) := by
  simp [exec, execPresenceAsserted, absent, inService, empty]

theorem exec_presenceAsserted_level {s : State} {k : CageId}
    (other : (s.cage k).mpres = true ∨ s.inService = false ∨ (s.cage k).seq.state ≠ .empty) :
    exec (.presenceAsserted k) s = .next (s.modCage k fun c => { c with mpres := true }) := by
  rcases other with present | outOfService | occupied
  · simp [exec, execPresenceAsserted, present]
  · simp [exec, execPresenceAsserted, outOfService]
  · simp [exec, execPresenceAsserted, occupied]

/-- A cage that has just entered SETTLE, its settle phase begun (R51–R54, R82). -/
def Cage.settling (c : Cage) : Cage := { c with
  seq := { c.seq with state := .settle, adoptPending := false, decision := false, mrst := true, mlpw := true,
                      ppres := false, pint := false, attempt := none, due := .none, bootCaptured := false, ret := none,
                      started := false }
  timer := { use := .phase .settle none c.seq.active.settle, elapsed := 0 } }

/-- The step into SETTLE after a change of the cage that leaves its flags and active set alone, as a frame (R54, R90). -/
theorem State.toSettle_becomes (s : State) (k : CageId) {f : Cage → Cage}
    (seqDue : ∀ c, (f c).seq.adoptionDue = c.seq.adoptionDue)
    (gateDue : ∀ c, (f c).gate.adoptionDue = c.gate.adoptionDue) (commutes : ∀ t c, f (c.adopted t) = (f c).adopted t) :
    cageBecomes k (f ((s.adoptSeq k).cage k)).settling (s.adoptSeq k) ((s.modCage k f).toSettle k) := by
  rw [State.toSettle_modCage s k f seqDue gateDue commutes]
  refine cageBecomes_modCage ?_
  dsimp only
  rw [Seq.enter_settle]
  rfl

/-- Settles O13, by `State.toSettle_becomes` where the cage enters SETTLE. -/
theorem presenceStartsSettle : Obligations.PresenceStartsSettle := by
  unfold Obligations.PresenceStartsSettle
  intro k s level
  refine ⟨fun absent inService empty => ⟨_, exec_presenceAsserted_settles absent inService empty, ?settle⟩,
    fun other => ⟨_, exec_presenceAsserted_level other, cageBecomes_modCage rfl⟩⟩
  exact s.toSettle_becomes k (fun _ => rfl) (fun _ => rfl) fun _ _ => rfl

/-- The sequencer record at the step into EMPTY (R50–R53). -/
theorem Seq.enter_empty (policy : PresencePolicy) (mint : Bool) (q : Seq) : q.enter policy mint .empty =
    { q with state := .empty, adoptPending := false, decision := false, mrst := true, mlpw := true, ppres := false,
             pint := false } := by
  cases policy <;> rfl

/-- Settles O16, by the four cases of REMOVAL in which no service ends. -/
theorem removalBeforeService : Obligations.RemovalBeforeService := by
  unfold Obligations.RemovalBeforeService
  intro k s c
  refine ⟨fun absent => ?absent, fun present reset => ?reset, fun present released pending => ?pending,
    fun present released served empty => ?empty⟩
  case absent => simp [exec, execRemoval, show (s.cage k).mpres = false from absent]
  case reset =>
    refine ⟨(s.modCage k fun c => { c with mpres := false }).modSeq k fun q => { q with ppres := false }, ?_, ?_⟩
    · simp [exec, execRemoval, show (s.cage k).mpres = true from present, reset]
    · rw [State.modSeq, State.modCage_modCage]
      exact cageBecomes_modCage rfl
  case pending =>
    refine ⟨(s.modCage k fun c => { c with mpres := false }).enter k .empty, ?_, ?_⟩
    · simp [exec, execRemoval, show (s.cage k).mpres = true from present, released,
        show (s.cage k).seq.adoptPending = true from pending]
    · rw [State.enter, State.modCage_modCage]
      refine cageBecomes_modCage ?_
      rw [Seq.enter_empty]
  case empty =>
    refine ⟨_, ?_, cageBecomes_modCage (f := fun c => { c with mpres := false }) rfl⟩
    simp [exec, execRemoval, show (s.cage k).mpres = true from present, released,
      show (s.cage k).seq.adoptPending = false from served, show (s.cage k).seq.state = .empty from empty]

/-- PINT_n follows MINT_n in three states (R53). -/
theorem pintFor_eq (st : CageState) (mint : Bool) :
    pintFor st mint = (decide (st = .live ∨ st = .held ∨ st = .faulted) && mint) := by
  cases st <;> rfl

/-- Settles O17: both clauses are `pintFor`, at the change of MINT_n and at the step into a state. -/
theorem interruptFollowsMint : Obligations.InterruptFollowsMint := by
  unfold Obligations.InterruptFollowsMint
  intro k s c follows
  refine ⟨fun asserted => ⟨_, rfl, cageBecomes_modCage ?_⟩, fun st => ?_⟩
  · rw [pintFor_eq]
  · rw [State.enter_cage_same]
    exact pintFor_eq st c.mint

end Sys2Proof.Machine
end

section
/-! SUPPORT. The adoption of a timing set at a phase's start (R90), the end of the settle phase (R55), and the proof of
O14. -/

namespace Sys2Proof.Machine

/-- With no pending set, or the flag clear, the active set stays (R90). -/
theorem State.adoptSeq_none {s : State} {k : CageId}
    (h : s.pendingTiming = none ∨ (s.cage k).seq.adoptionDue = false) : s.adoptSeq k = s := by
  unfold State.adoptSeq
  rcases h with absent | clear
  · rw [absent]
  · split
    · rfl
    · rw [if_neg (by rw [clear]; exact Bool.false_ne_true)]

theorem State.adoptSeq_due {s : State} {k : CageId} {t : TimingSet} (pending : s.pendingTiming = some t)
    (due : (s.cage k).seq.adoptionDue = true) :
    s.adoptSeq k = (s.modCage k (Cage.adopted t)).settlePending := by
  unfold State.adoptSeq
  rw [pending]
  exact if_pos due

/-- The pending set goes with the last flag (R90). -/
theorem State.settlePending_eq (s : State) :
    s.settlePending = { s with pendingTiming := if s.anyAdoptionDue then s.pendingTiming else none } := by
  unfold State.settlePending
  cases s.anyAdoptionDue <;> rfl

theorem State.settlePending_adoptionLeft (s : State) : s.settlePending.adoptionLeft ↔ s.anyAdoptionDue = true := by
  rw [State.anyAdoptionDue_iff, State.settlePending_eq]
  rfl

/-- An adoption changes a cage in its active set and its flag alone (R90). -/
theorem State.adoptSeq_cage (s : State) (k : CageId) : ∃ (t : TimingSet) (due : Bool), (s.adoptSeq k).cage k =
    { s.cage k with seq := { (s.cage k).seq with active := t, adoptionDue := due } } := by
  obtain ⟨same | ⟨t, _, adopted⟩, _⟩ := s.adoptSeq_facts k
  · exact ⟨_, _, same⟩
  · exact ⟨t, false, adopted⟩

/-- A notice of a command that changes cage `k` alone (R205). -/
theorem cageBecomes.submit {k : CageId} {c : Cage} {s t : State} (h : cageBecomes k c s t) (f : Frame) :
    cageBecomes k c { s with notice := s.notice.submit f } (t.submit f) := by
  obtain ⟨cage, others, channels, staged, power, store, log, loader, notice, pendingTiming, lineReset, pending⟩ := h
  exact ⟨cage, others, channels, staged, power, store, log, loader, by rw [State.submit_notice, notice], pendingTiming,
    lineReset, pending⟩

/-- What the end of the settle phase makes of a cage before it enters PROBE: a reseat counted and both cursors (0, 0)
(R55). -/
def Cage.settled (c : Cage) : Cage := { c with
  seq := { c.seq with
    counters := { c.seq.counters with reseats := c.seq.counters.reseats + 1 }
    bootTime := 0, powerTime := 0, carried := none }
  gate := { c.gate with ctrl := { sheet := 0, pointer := 0 }, modc := { sheet := some 0, pointer := some 0 } } }

/-- The step into PROBE with its boot phase, after the adoption of R90 (R55, R82, R83). -/
theorem State.toProbe_settled (s : State) (k : CageId) : ((s.modCage k Cage.settled).enter k .probe).startPhase k .boot =
    (s.adoptSeq k).modCage k fun c => { c.settled with
      seq := { c.settled.seq with
        state := .probe, adoptPending := false, mrst := false, ppres := ppresFor s.profile.policy .probe, pint := false,
        attempt := none, due := .compareA, bootCaptured := false, ret := none, started := false }
      timer := { use := .phase .boot (some c.seq.active.bootFirst) c.seq.active.bootLimit, elapsed := 0 } } := by
  unfold State.startPhase State.enter
  rw [State.modCage_modCage,
    State.adoptSeq_modCage s k _ (by exact fun _ => rfl) (by exact fun _ => rfl) (by exact fun _ _ => rfl),
    State.modCage_modCage]
  rfl

theorem exec_settleCompareB {s : State} {k : CageId} (settling : (s.cage k).phase? = some .settle) :
    let t := ((s.modCage k Cage.settled).enter k .probe).startPhase k .boot
    exec (.settleCompareB k) s = .next (t.submit (presentFrame k (t.cage k).seq.counters.reseats)) :=
  if_pos settling

/-- Settles O14: the adoption by `State.adoptSeq_due`, the end of the phase by `State.toProbe_settled`. -/
theorem settleEndsInProbe : Obligations.SettleEndsInProbe := by
  unfold Obligations.SettleEndsInProbe
  refine ⟨fun k s => ⟨State.adoptSeq_none, fun t pending due => ?adopts⟩, fun k a? b s settling => ?probe⟩
  case adopts =>
    dsimp only
    rw [State.adoptSeq_due pending due, State.settlePending_adoptionLeft, State.settlePending_eq]
    refine ⟨?_, fun left => ?_, fun last => ?_⟩
    · exact cageBecomes_modCage (s := { s with pendingTiming := _ }) rfl
    · exact (if_pos left).trans pending
    · exact if_neg last
  case probe =>
    have ends := exec_settleCompareB (s := s) (k := k) (by rw [Cage.phase?, settling])
    refine ⟨_, ends, ?_⟩
    rw [State.toProbe_settled, State.cage_modCage_same]
    exact (cageBecomes_modCage rfl).submit _

end Sys2Proof.Machine
end

section
/-! SUPPORT. The start of a sequencer's cursor return as a frame (R16, R63, R90). -/

namespace Sys2Proof.Machine

/-- A cage that has just begun a cursor return with its transaction started (R16, R63, R81). -/
def Cage.returning (c : Cage) (target : ReturnTarget) (goal : Cursor) : Cage := { c with
  seq := { c.seq with
    attempt := none, due := .none, started := true, ret := some { target := target, goal := goal, retry := .inHand } }
  timer := c.returnTimer }

/-- The start of a cursor return after a change of the cage that leaves its flags and active set alone, no other use of the
stall timer waiting (R16, R63, R90). -/
theorem State.startReturn_becomes (s : State) (k : CageId) {f : Cage → Cage} (target : ReturnTarget)
    (seqDue : ∀ c, (f c).seq.adoptionDue = c.seq.adoptionDue)
    (gateDue : ∀ c, (f c).gate.adoptionDue = c.gate.adoptionDue) (commutes : ∀ t c, f (c.adopted t) = (f c).adopted t)
    (free : (f (s.cage k)).gate.stallBusy = false) :
    cageBecomes k ((f ((s.adoptSeq k).cage k)).returning target (f (s.cage k)).gate.ctrl) (s.adoptSeq k)
      ((s.modCage k f).startReturn k target) := by
  have gate : (f ((s.adoptSeq k).cage k)).gate = (f (s.cage k)).gate := by
    obtain ⟨same | ⟨t, _, adopted⟩, _⟩ := s.adoptSeq_facts k
    · rw [same]
    · rw [adopted, commutes]
      rfl
  rw [State.startReturn_modCage s k f target seqDue gateDue commutes]
  refine cageBecomes_modCage ?_
  have goal : (f ((s.adoptSeq k).cage k)).gate.ctrl = (f (s.cage k)).gate.ctrl := by rw [gate]
  have unbusy : (f ((s.adoptSeq k).cage k)).gate.stallBusy = false := by rw [gate]; exact free
  simp only [goal, unbusy]
  rfl

end Sys2Proof.Machine
end

section
/-! SUPPORT. The completed probe step and the restore decision (R58, R60–R62), and the proof of O22. -/

namespace Sys2Proof.Machine

theorem JournalState.usable_eq (st : JournalState) : st.usable = decide (st = .opened ∨ st = .frozen) := by
  cases st <;> rfl

/-- The two columns of R62, whether the cage goes to QUEUED and whether the decision is YES, each in one formula. -/
theorem restoreDecision_eq (o : IdOutcome) (st : JournalState) (count : Nat) (policy : Bool) :
    let usable := decide (st = .opened ∨ st = .frozen)
    let some' := decide (0 < count)
    let taken := decide (o = .same) || decide (o = .compatible) && policy
    restoreDecision o st count policy =
      (decide (o = .none) || usable && (taken || decide (o = .compatible) && !some'), usable && some' && taken) := by
  dsimp only
  rw [← JournalState.usable_eq]
  cases o
  case none => simp [restoreDecision]
  case foreign => simp [restoreDecision]
  case same => cases usable : st.usable <;> simp [restoreDecision, usable]
  case compatible =>
    by_cases held : 0 < count <;> cases usable : st.usable <;> cases policy <;> simp [restoreDecision, held, usable]

/-- An attempt in hand that the answers complete, no other use of the stall timer waiting (R84). -/
theorem State.attemptEnd_complete {s : State} {k : CageId} {answers : List Response} {a done : Attempt} {m : ModCursor}
    (attempt : (s.cage k).seq.attempt = some a) (started : (s.cage k).seq.started = true)
    (unstuck : (s.cage k).gate.stuckForSeq = false) (free : (s.cage k).gate.stallBusy = false)
    (run : runAttempt (s.cage k).gate.modc a a.todo answers = (m, .complete done)) :
    s.attemptEnd k answers = some (m, .complete done) := by
  rw [State.attemptEnd_answered s k answers a attempt started unstuck free, run]

/-- What a completed probe step writes to its cage (R58, R60–R62, R86, R47). -/
def Cage.probed (p : Profile) (m : ModCursor) (done : Attempt) (o : IdOutcome) (decision : Bool) (c : Cage) : Cage :=
  { c with
  gate := { c.gate with modc := m }
  seq := { c.seq with
    lastIdentity := some done.identity, outcome := o, powerClass := powerClassOf p done.classByte,
    bootTime := if c.seq.bootCaptured then c.seq.bootTime else done.began, bootCaptured := true, decision := decision }
  journal := { c.journal with incomplete := c.journal.incomplete || decision } }

theorem State.probed_eq (s : State) (k : CageId) (m : ModCursor) (done : Attempt) (o : IdOutcome) (decision : Bool) :
    s.probed k m done o decision = s.modCage k (Cage.probed s.profile m done o decision) := rfl

/-- PROBE_STEP_COMPLETE where the answers complete the probe step (R58, R62). -/
theorem exec_probeStepComplete {s : State} {k : CageId} {answers : List Response} {m : ModCursor} {done : Attempt}
    (probing : (s.cage k).seq.state = .probe) (ends : s.attemptEnd k answers = some (m, .complete done)) :
    let j := (s.cage k).journal
    let o := compareIdentity s.profile.fields j.identity done.identity
    let d := restoreDecision o j.state j.count s.profile.compatible
    let u := s.probed k m done o d.2
    exec (.probeStepComplete k answers) s = .next (if d.1 then u.toQueued k else u.startReturn k .held) := by
  show execProbeStepComplete k answers s = _
  unfold execProbeStepComplete
  rw [if_pos (show s.stateOf k = .probe from probing), ends]
  exact (apply_ite Host.Outcome.next _ _ _).symm

/-- Settles O22: the decision by `restoreDecision_eq`, QUEUED by `State.toQueued_modCage`, the return toward HELD by
`State.startReturn_becomes`. -/
theorem probeStepDecides : Obligations.ProbeStepDecides := by
  unfold Obligations.ProbeStepDecides
  intro k answers at' done m s c probing attempt started unstuck free run o usable some' taken yes queued cls probed journal
  have decides : restoreDecision o c.journal.state c.journal.count s.profile.compatible = (queued, yes) :=
    restoreDecision_eq o c.journal.state c.journal.count s.profile.compatible
  have steps := exec_probeStepComplete probing (State.attemptEnd_complete attempt started unstuck free run)
  dsimp only at steps
  rw [decides] at steps
  refine ⟨fun joins => ?queued, fun stays => ?held⟩
  case queued =>
    rw [joins, if_pos rfl, State.probed_eq, State.toQueued_modCage] at steps
    simp only [List.isEmpty_iff] at steps
    exact ⟨_, steps, cageBecomes_modCage rfl⟩
  case held =>
    rw [stays, if_neg Bool.false_ne_true, State.probed_eq] at steps
    refine ⟨_, steps, ?_⟩
    have returns := s.startReturn_becomes k (f := Cage.probed s.profile m done o yes) .held (fun _ => rfl) (fun _ => rfl)
      (fun _ _ => rfl) free
    obtain ⟨t, due, adopted⟩ := s.adoptSeq_cage k
    rw [adopted] at returns ⊢
    exact returns

end Sys2Proof.Machine
end

section
/-! SUPPORT. The end of POWERUP by a match, with the draw released (R66, R102), and the proof of O23. -/

namespace Sys2Proof.Machine

theorem Power.adopt_list (p : Power) : p.adopt.list = p.list := by
  unfold Power.adopt
  split
  · rfl
  · split <;> rfl

/-- The unit's tests leave a cage alone that does not wait on its list (R102). -/
theorem State.unitTests_unlisted {s : State} {k : CageId} (h : ∀ e ∈ s.power.list, e.cage ≠ k) :
    s.unitTests.cage k = s.cage k :=
  State.admitHeads_other (s.modPower Power.adopt) _ k fun e listed => h e (by rwa [← Power.adopt_list])

/-- The checks of the unit leave every gate alone. -/
theorem UnitKeeps.gate {s t : State} (h : UnitKeeps s t) (k : CageId) : (t.cage k).gate = (s.cage k).gate := by
  rcases h.cage k with same | admitted
  · rw [same]
  · rw [admitted]

/-- The checks of the unit leave every restore decision alone: POWERUP keeps it (R50). -/
theorem UnitKeeps.decision {s t : State} (h : UnitKeeps s t) (k : CageId) :
    (t.cage k).seq.decision = (s.cage k).seq.decision := by
  rcases h.cage k with same | admitted
  · rw [same]
  · rw [admitted]

/-- The step into STAGED, as a frame (R68, R87, R110). -/
theorem State.toStaged_becomes (s : State) (k : CageId) :
    cageBecomes k { s.cage k with
      seq := { (s.cage k).seq with
        state := .staged, adoptPending := false, pint := false, ppres := ppresFor s.profile.policy .staged,
        attempt := none, due := .none, ret := none, started := false }
      timer := { use := .wait, elapsed := 0 } } { s with staged := s.staged ++ [k] } (s.toStaged k) := by
  have staged := s.toStaged_modCage k id
  rw [State.modCage_id s k id rfl] at staged
  rw [staged]
  exact cageBecomes_modCage rfl

/-- What the match that ends POWERUP writes to the cage: the power time at which its attempt began (R66, R86). -/
def Cage.powered (m : ModCursor) (began : Nat) (c : Cage) : Cage :=
  { c with gate := { c.gate with modc := m }, seq := { c.seq with powerTime := began } }

/-- The part once a match has ended POWERUP and the draw is released, before the unit's tests (R66, R102). -/
def State.powered (s : State) (k : CageId) (m : ModCursor) (began : Nat) : State :=
  (s.modCage k (Cage.powered m began)).modPower fun p => p.release k

theorem State.powered_cage (s : State) (k : CageId) (m : ModCursor) (began : Nat) :
    (s.powered k m began).cage k = (s.cage k).powered m began :=
  (State.modPower_cage _ _ k).trans (State.cage_modCage_same s k _)

/-- PROBE_H_MATCH where the answers complete the poll (R66). -/
theorem exec_probeHMatch {s : State} {k : CageId} {answers : List Response} {m : ModCursor} {done : Attempt}
    (powering : (s.cage k).seq.state = .powerup) (ends : s.attemptEnd k answers = some (m, .complete done)) :
    let v := (s.powered k m done.began).unitTests
    exec (.probeHMatch k answers) s = .next (if (v.cage k).seq.decision then v.toStaged k else v.startReturn k .live) := by
  show execProbeHMatch k answers s = _
  unfold execProbeHMatch
  rw [if_pos (show s.stateOf k = .powerup from powering), ends]
  exact (apply_ite Host.Outcome.next _ _ _).symm

/-- Settles O23: the unit's tests leave the cage's decision and gate alone, and the decision takes its way by
`State.toStaged_becomes` or `State.startReturn_becomes`. -/
theorem powerupMatchReleasesDraw : Obligations.PowerupMatchReleasesDraw := by
  unfold Obligations.PowerupMatchReleasesDraw
  intro k answers at' done m s c powering attempt started unstuck free run
  have ways := exec_probeHMatch powering (State.attemptEnd_complete attempt started unstuck free run)
  have tests := UnitKeeps.unitTests (s.powered k m done.began)
  have gate := tests.gate k
  rw [State.powered_cage] at gate
  dsimp only at ways
  rw [tests.decision, State.powered_cage] at ways
  refine ⟨s.powered k m done.began, cageBecomes_modCage (s := { s with power := s.power.release k }) rfl,
    State.unitTests_unlisted (s := s.powered k m done.began),
    fun yes => ⟨_, ways.trans (congrArg _ (if_pos yes)), ?staged⟩,
    fun no => ⟨_, ways.trans (congrArg _ (if_neg (Bool.eq_false_iff.mp no))), ?returns⟩⟩
  case staged =>
    have staged := (s.powered k m done.began).unitTests.toStaged_becomes k
    have profile : (s.powered k m done.began).unitTests.profile = s.profile := congrArg Loader.profile tests.loader
    rw [tests.staged, profile] at staged
    exact staged
  case returns =>
    have returns := (s.powered k m done.began).unitTests.startReturn_becomes k (f := id) .live (fun _ => rfl)
      (fun _ => rfl) (fun _ _ => rfl) (by rw [id, gate]; exact free)
    rw [State.modCage_id _ k id rfl] at returns
    simp only [id, gate] at returns
    exact returns

end Sys2Proof.Machine
end

section
/-! SUPPORT. The ends of ADOPT, by a completed step and at compare B (R79, R80, R85, R86), and the proof of O25. -/

namespace Sys2Proof.Machine

/-! ## The completed step -/

/-- What a completed ADOPT step writes to its cage (R79). -/
def Cage.identified (m : ModCursor) (done : Attempt) (o : IdOutcome) (c : Cage) : Cage := { c with
  gate := { c.gate with modc := m }
  seq := { c.seq with powerTime := done.began, lastIdentity := some done.identity, outcome := o } }

/-- ADOPT_STEP_COMPLETE where the answers complete the step (R79, R80). -/
theorem exec_adoptStepComplete {s : State} {k : CageId} {answers : List Response} {m : ModCursor} {done : Attempt}
    (adopting : (s.cage k).seq.state = .adopt) (ends : s.attemptEnd k answers = some (m, .complete done)) :
    let c := s.cage k
    let o := compareIdentity s.profile.fields c.journal.identity done.identity
    let u := s.modCage k (Cage.identified m done o)
    exec (.adoptStepComplete k answers) s =
      .next (if c.seq.keeps o c.journal.incomplete then u.startReturn k .live else u.toSettle k) := by
  show execAdoptStepComplete k answers s = _
  unfold execAdoptStepComplete
  rw [if_pos (show s.stateOf k = .adopt from adopting), ends]
  simp only [State.cage_modCage_same]
  exact (apply_ite Host.Outcome.next _ _ _).symm

theorem Seq.keeps_iff (q : Seq) (o : IdOutcome) (incomplete : Bool) : q.keeps o incomplete = true ↔
    q.mrst = false ∧ q.mlpw = false ∧ incomplete = false ∧ (o = .same ∨ o = .none) := by
  simp [Seq.keeps, and_assoc]

/-! ## Compare B -/

theorem exec_adoptCompareB {s : State} {k : CageId} (adopting : (s.cage k).phase? = some .adopt)
    (carried : Option Response) :
    exec (.adoptCompareB k carried) s = .next ((s.stopAttempt k carried).toSettle k) := if_pos adopting

/-- What stopping an attempt at compare B makes of its cage, with `left` carried to its end (R85, R86). -/
def Cage.attemptStopped (compareB : Nat) (left : Option Trans) (modc : ModCursor) (c : Cage) : Cage := { c with
  gate := { (if c.gate.stuckForSeq then c.gate.endStuck else c.gate) with modc := modc }
  timer := { c.timer with elapsed := max c.timer.elapsed compareB }
  seq := { c.seq.uncapture with attempt := none, due := .none, ret := none, started := false, carried := left } }

/-- With no transaction in progress the command's answer is for none (R85). -/
theorem State.stopAttempt_idle {s : State} {k : CageId} (idle : (s.cage k).seqTrans? = none) (carried : Option Response) :
    s.stopAttempt k carried = s.modCage k
      (Cage.attemptStopped (s.cage k).compareB none (s.cage k).gate.modc) := by
  rw [State.stopAttempt_eq]
  refine State.modCage_congr s k _ _ ?_
  cases carried <;> simp only [idle] <;> rfl

/-- An unanswered transaction is carried to its end (R85). -/
theorem State.stopAttempt_carries {s : State} {k : CageId} {tr : Trans} (inProgress : (s.cage k).seqTrans? = some tr) :
    s.stopAttempt k none = s.modCage k
      (Cage.attemptStopped (s.cage k).compareB (some tr) (s.cage k).gate.modc) := by
  rw [State.stopAttempt_eq]
  refine State.modCage_congr s k _ _ ?_
  simp only [inProgress]
  rfl

/-- An answered transaction is accounted (R10, R85). -/
theorem State.stopAttempt_accounts {s : State} {k : CageId} {tr : Trans} (inProgress : (s.cage k).seqTrans? = some tr)
    (r : Response) : s.stopAttempt k (some r) = s.modCage k
      (Cage.attemptStopped (s.cage k).compareB none ((s.cage k).gate.modc.account tr r)) := by
  rw [State.stopAttempt_eq]
  refine State.modCage_congr s k _ _ ?_
  simp only [inProgress]
  rfl

/-- Compare B goes back to the captures that stood when the attempt in hand began (R85, R86). -/
theorem Seq.uncapture_eq (q : Seq) : let kept := q.attempt.elim q.captures Attempt.kept
    q.uncapture = { q with bootTime := kept.bootTime, powerTime := kept.powerTime, bootCaptured := kept.bootCaptured } := by
  unfold Seq.uncapture
  cases q.attempt <;> rfl

/-- The end of a stuck check or bus clear that was made for the sequencer (R94, R157). -/
theorem Gate.endStuck_forSeq {g : Gate} (h : g.stuckForSeq = true) : g.endStuck = { g with
    clearing := false, stallElapsed := 0, stallUse := if g.inHand.isSome then .upstream else .stopped } := by
  refine g.endStuck_eq ?_
  unfold Gate.stuckForSeq at h
  simpa using (Bool.and_eq_true_iff.mp h).1

/-- The step into SETTLE after the stop of an attempt, as a frame (R54, R80, R85). -/
theorem State.toSettle_attemptStopped (s : State) (k : CageId) (compareB : Nat) (left : Option Trans) (modc : ModCursor) :
    let d := (s.adoptSeq k).cage k
    let kept := (s.cage k).seq.attempt.elim (s.cage k).seq.captures Attempt.kept
    cageBecomes k (Cage.settling { d with
        seq := { d.seq with carried := left, bootTime := kept.bootTime, powerTime := kept.powerTime }
        gate := { (if d.gate.stuckForSeq then { d.gate with
            clearing := false, stallElapsed := 0, stallUse := if d.gate.inHand.isSome then .upstream else .stopped }
          else d.gate) with modc := modc } }) (s.adoptSeq k)
      ((s.modCage k (Cage.attemptStopped compareB left modc)).toSettle k) := by
  have settles := s.toSettle_becomes k (f := Cage.attemptStopped compareB left modc) (fun _ => rfl)
    (fun c => by unfold Cage.attemptStopped; dsimp only; split <;> rfl) (fun _ _ => rfl)
  obtain ⟨t, due, adopted⟩ := s.adoptSeq_cage k
  dsimp only
  rw [adopted] at settles ⊢
  unfold Cage.attemptStopped at settles
  rw [Seq.uncapture_eq] at settles
  by_cases stuck : (s.cage k).gate.stuckForSeq = true
  · simp only [stuck, if_true, Gate.endStuck_forSeq stuck] at settles ⊢
    exact settles
  · simp only [stuck] at settles ⊢
    exact settles

/-- Settles O25: the completed step by `Seq.keeps_iff`, compare B by what becomes of the transaction in progress. -/
theorem adoptionKeepsOrResets : Obligations.AdoptionKeepsOrResets := by
  unfold Obligations.AdoptionKeepsOrResets
  intro k s c a settle dropped kept stopped
  refine ⟨fun answers at' done m adopting attempt started unstuck free run => ?completed,
    fun a? b running idle carried => ?idle, fun a? b tr running inProgress => ⟨?carries, fun r => ?accounts⟩⟩
  case completed =>
    intro o d e keeps
    have ways := exec_adoptStepComplete adopting (State.attemptEnd_complete attempt started unstuck free run)
    have kept := c.seq.keeps_iff o c.journal.incomplete
    refine ⟨fun yes => ⟨_, ways.trans (congrArg _ (if_pos (kept.mpr yes))), ?keeps⟩,
      fun no => ⟨_, ways.trans (congrArg _ (if_neg (mt kept.mp no))), ?resets⟩⟩
    case keeps =>
      exact s.startReturn_becomes k (f := Cage.identified m done o) .live (fun _ => rfl) (fun _ => rfl) (fun _ _ => rfl) free
    case resets =>
      exact s.toSettle_becomes k (f := Cage.identified m done o) (fun _ => rfl) (fun _ => rfl) fun _ _ => rfl
  case idle =>
    refine ⟨_, exec_adoptCompareB (by rw [Cage.phase?, show (s.cage k).timer.use = _ from running]) carried, ?_⟩
    rw [State.stopAttempt_idle idle]
    exact s.toSettle_attemptStopped k _ none _
  case carries =>
    refine ⟨_, exec_adoptCompareB (by rw [Cage.phase?, show (s.cage k).timer.use = _ from running]) none, ?_⟩
    rw [State.stopAttempt_carries inProgress]
    exact s.toSettle_attemptStopped k _ (some tr) _
  case accounts =>
    refine ⟨_, exec_adoptCompareB (by rw [Cage.phase?, show (s.cage k).timer.use = _ from running]) (some r), ?_⟩
    rw [State.stopAttempt_accounts inProgress]
    exact s.toSettle_attemptStopped k _ none _

end Sys2Proof.Machine
end

section
/-! SUPPORT. What a removal makes of the gate and of the cage (R73, R153), once for each. -/

namespace Sys2Proof.Machine

/-! ## The gate -/

theorem Gate.stretching_inHand {g : Gate} {h : InHand} (hand : g.inHand = some h) :
    g.stretching = true ↔ h.stage = .downAddress ∨ h.stage = .downOffset := by
  simp only [Gate.stretching, hand]
  cases h.stage <;> simp

/-- A noted sheet select is applied to both cursors (R152). -/
theorem Gate.applySelect_selects {g : Gate} {h : InHand} (hand : g.inHand = some h) :
    g.applySelect = { g.selects h with inHand := some { h with sheetSelect := none } } := by
  simp only [Gate.applySelect, Gate.selects, hand]
  cases select : h.sheetSelect with
  | none =>
    have same : ({ h with sheetSelect := none } : InHand) = h := by rw [← select]
    rw [same, ← hand]
    rfl
  | some v => rfl

/-- The gate at a removal once the sequencer's own check of CDA is dropped too (R73, R153). -/
def Gate.abandoned (g : Gate) : Gate := if g.removed.stuckForSeq then g.removed.endStuck else g.removed

/-- A relayed transaction is refused from there on, and a held acknowledge is answered with NACK (R153). -/
theorem Gate.abandoned_relayed {g : Gate} {h : InHand} (hand : g.inHand = some h)
    (relayed : h.treatment = .relay ∨ h.treatment = .relayCapture) : g.abandoned = { g.selects h with
      relay := .holding, port := .free, clearing := false, stallUse := .stopped
      stallElapsed := if g.stallUse = .upstream then g.stallElapsed else 0
      answer := if h.stage = .downAddress ∨ h.stage = .downOffset then .nack else g.answer
      inHand := some { h with treatment := .refuse, stage := .data, sheetSelect := none, data := [] } } := by
  have removed : g.removed = { g.selects h with
      relay := .holding, port := .free, clearing := false, stallUse := .stopped
      stallElapsed := if g.stallUse = .upstream then g.stallElapsed else 0
      answer := if h.stage = .downAddress ∨ h.stage = .downOffset then .nack else g.answer
      inHand := some { h with treatment := .refuse, stage := .data, sheetSelect := none, data := [] } } := by
    unfold Gate.removed
    simp only [hand, if_pos relayed.symm, Gate.applySelect_selects hand, Gate.stretching_inHand hand]
  unfold Gate.abandoned
  rw [removed]
  rfl

/-- A gate that relays nothing keeps its transaction, its cursors and its answer (R153). -/
theorem Gate.abandoned_kept {g : Gate}
    (kept : ∀ h : InHand, g.inHand = some h → ¬(h.treatment = .relay ∨ h.treatment = .relayCapture)) :
    let a := g.abandoned
    a.relay = g.relay ∧ a.answer = g.answer ∧ a.ctrl = g.ctrl ∧ a.modc = g.modc ∧ a.inHand = g.inHand := by
  have removed : g.removed = { g with port := .free } := by
    unfold Gate.removed
    cases hand : g.inHand with
    | none => rfl
    | some h => exact if_neg (mt Or.symm (kept h hand))
  unfold Gate.abandoned
  rw [removed]
  split <;> exact ⟨rfl, rfl, rfl, rfl, rfl⟩

/-! ## The lists and the cage -/

/-- A cage that waits on no list and holds no charge leaves none (R73). -/
theorem State.unlisted_other {s : State} {k : CageId} (queued : (s.cage k).seq.state ≠ .queued)
    (powering : (s.cage k).seq.state ≠ .powerup) (staged : (s.cage k).seq.state ≠ .staged) : s.unlisted k = s := by
  unfold State.unlisted
  split
  · exact absurd ‹_› queued
  · exact absurd ‹_› powering
  · exact absurd ‹_› staged
  · rfl

/-- What leaving the lists keeps of every cage, admitted on the way or not. -/
theorem State.unlisted_kept (s : State) (k j : CageId) : let c := s.cage j
    let d := (s.unlisted k).cage j
    d.mpres = c.mpres ∧ d.mint = c.mint ∧ d.journal = c.journal ∧ d.buffers = c.buffers ∧ d.gate = c.gate ∧
    d.slot = c.slot ∧ d.seq.counters = c.seq.counters := by
  rcases s.unlisted_cage k j with same | admitted
  · simp only [same, and_self]
  · dsimp only
    rw [admitted]
    exact ⟨rfl, rfl, rfl, rfl, rfl, rfl, rfl⟩

/-- What a removal from the state `left` makes of a cage that has left its list (R73, R76). -/
def Cage.removed (left : CageState) (c : Cage) : Cage := { c with
  seq := { c.seq with
    state := .empty, adoptPending := false, decision := false, mrst := true, mlpw := true, ppres := false, pint := false
    counters := if left = .settle then { c.seq.counters with bounces := c.seq.counters.bounces + 1 } else c.seq.counters
    attempt := none, due := .none, ret := none, started := false, carried := none }
  timer := { c.timer with use := .idle }
  gate := c.gate.abandoned }

/-- The part once a removed cage has entered EMPTY and REMOVED is queued, before what the cage leaves behind is abandoned
(R73; log entry 11). -/
def State.vacated (s : State) (k : CageId) (left : CageState) : State :=
  ((s.unlisted k).modCage k (Cage.removed left)).submit (removedFrame k left)

theorem State.vacated_cage (s : State) (k : CageId) (left : CageState) :
    (s.vacated k left).cage k = ((s.unlisted k).cage k).removed left :=
  (State.submit_cage _ _ k).trans (State.cage_modCage_same _ k _)

/-- The operations of a removal on the cage, one after another, are `Cage.removed`. -/
theorem State.removeFrom_vacates {s : State} {k : CageId} {left : CageState} (leaves : (s.cage k).seq.state = left) :
    let s1 := if left = .settle then s.count k fun n => { n with bounces := n.bounces + 1 } else s
    ((((s1.leaveLists k).modGate k Gate.removed).stopSeqWork k none).idleTimer k).enter k .empty =
      (s.unlisted k).modCage k (Cage.removed left) := by
  dsimp only
  rw [State.leaveLists_eq]
  unfold State.enter State.idleTimer State.stopSeqWork State.modGate
  by_cases settling : left = .settle
  · have counted : (s.count k fun n => { n with bounces := n.bounces + 1 }).unlisted k =
        s.count k fun n => { n with bounces := n.bounces + 1 } := by
      apply State.unlisted_other <;> simp [leaves, settling]
    rw [if_pos settling, counted, State.unlisted_other (s := s) (by simp [leaves, settling])
      (by simp [leaves, settling]) (by simp [leaves, settling])]
    unfold State.count State.modSeq
    simp only [State.modCage_modCage]
    refine State.modCage_congr s k _ _ ?_
    simp only [Seq.enter_empty, Cage.removed, if_pos settling]
    rfl
  · rw [if_neg settling]
    simp only [State.modCage_modCage]
    refine State.modCage_congr _ k _ _ ?_
    simp only [Seq.enter_empty, Cage.removed, if_neg settling]
    rfl

/-- A removal outside a restore: a waiting directive is discarded (R73, R181). -/
theorem State.removeFrom_outside {s : State} {k : CageId} {left : CageState} (leaves : (s.cage k).seq.state = left)
    (outside : s.channelOf k = none) : s.removeFrom k left = (s.vacated k left).discardSlot k := by
  have vacates := State.removeFrom_vacates leaves
  dsimp only at vacates
  unfold State.removeFrom
  dsimp only
  rw [outside, vacates]
  rfl

/-- A removal from a restore: the restore is abandoned (R74, R135). -/
theorem State.removeFrom_restoring {s : State} {k : CageId} {left : CageState} {ch : Fin 4} {x : ChannelCtx}
    (leaves : (s.cage k).seq.state = left) (restoring : s.channelOf k = some (ch, x)) :
    s.removeFrom k left = (s.vacated k left).abandonRestore ch k := by
  have vacates := State.removeFrom_vacates leaves
  dsimp only at vacates
  unfold State.removeFrom
  dsimp only
  rw [restoring, vacates]
  rfl

/-- REMOVAL in a cage's service (R73). -/
theorem exec_removal_served {s : State} {k : CageId} (present : (s.cage k).mpres = true) (released : s.lineReset = false)
    (served : (s.cage k).seq.adoptPending = false) (occupied : (s.cage k).seq.state ≠ .empty) :
    exec (.removal k) s =
      .next ((s.modCage k fun c => { c with mpres := false }).removeFrom k (s.cage k).seq.state) := by
  show execRemoval k s = _
  unfold execRemoval
  simp only [present, released, served]
  cases left : (s.cage k).seq.state with
  | empty => exact absurd left occupied
  | _ => rfl

/-! ## The directive slot -/

/-- The notice queue once a waiting directive is reported DISCARDED (R178, R181). -/
def State.discardNotice (s : State) (k : CageId) : NoticePort :=
  (s.cage k).slot.elim s.notice fun d => s.notice.submit (refusedFrame k d (s.stateOf k) .discarded)

/-- Everything the discarding of a waiting directive does (R178, R181). -/
theorem State.discardSlot_becomes (s : State) (k : CageId) : cageBecomes k { s.cage k with slot := none }
    { s with notice := s.discardNotice k } (s.discardSlot k) := by
  unfold State.discardSlot State.discardNotice
  cases waits : (s.cage k).slot with
  | none => exact cageBecomes_self (s := { s with notice := s.notice }) (by rw [← waits])
  | some d =>
    have shown : (s.setSlot k none).stateOf k = s.stateOf k := by
      unfold State.stateOf
      rw [State.setSlot_cage_same]
    have discarded : cageBecomes k { s.cage k with slot := none } s (s.setSlot k none) := cageBecomes_modCage rfl
    show cageBecomes k _ _ ((s.setSlot k none).submit (refusedFrame k d ((s.setSlot k none).stateOf k) .discarded))
    rw [shown]
    exact discarded.submit _

end Sys2Proof.Machine
end

section
/-! SUPPORT. REMOVAL in a cage's service, and the proof of O15. -/

namespace Sys2Proof.Machine

/-- Settles O15: the cage by `Cage.removed`, the directive slot by `State.discardSlot_becomes`. -/
theorem removalEmptiesCage : Obligations.RemovalEmptiesCage := by
  unfold Obligations.RemovalEmptiesCage
  intro k s c present released served occupied outside left removed
  let w := s.modCage k fun c => { c with mpres := false }
  have emptied : w.cage k = { c with mpres := false } := State.cage_modCage_same s k _
  have leaves : (w.cage k).seq.state = left := by rw [emptied]
  have run := exec_removal_served present released served occupied
  rw [show (s.modCage k fun c => { c with mpres := false }) = w from rfl,
    State.removeFrom_outside leaves outside] at run
  refine ⟨w, _, cageBecomes_modCage rfl, run, ?_⟩
  obtain ⟨mpres, mint, journal, buffers, gate, slot, counters⟩ := w.unlisted_kept k k
  obtain ⟨channels, store, log, loader, notice, lineReset, pending⟩ := w.unlisted_shared k
  rw [emptied] at mpres mint journal buffers gate slot counters
  obtain ⟨cage, others, discarded⟩ := (w.vacated k left).discardSlot_becomes k
  obtain ⟨channels', staged', power', store', log', loader', notice', timing', lineReset', pending'⟩ := discarded
  rw [State.vacated_cage] at cage
  have abandoned : ({ ((w.unlisted k).cage k).removed left with slot := none } : Cage).gate = c.gate.abandoned :=
    congrArg Gate.abandoned gate
  dsimp only
  rw [cage]
  refine ⟨fun j other => (others j other).trans (State.cage_modCage_other _ k j _ other),
    ⟨mpres, mint, journal, buffers, rfl, rfl, ⟨rfl, rfl, rfl, rfl, rfl, rfl, rfl, rfl, rfl, rfl⟩, ?counters, ?relays,
      ?idle⟩,
    staged', power', notice'.trans ?notice, channels'.trans channels, store'.trans store, log'.trans log,
    loader'.trans loader, timing', lineReset'.trans lineReset, pending'.trans pending⟩
  case counters =>
    simp only [Cage.removed, counters]
  case relays =>
    intro h hand
    by_cases relayed : h.treatment = .relay ∨ h.treatment = .relayCapture
    · rw [if_pos relayed, abandoned, Gate.abandoned_relayed hand relayed]
      exact ⟨rfl, rfl, rfl, rfl, rfl, rfl, rfl⟩
    · rw [if_neg relayed, abandoned]
      refine Gate.abandoned_kept fun i held => ?_
      rwa [← Option.some.inj (hand.symm.trans held)]
  case idle =>
    intro idle
    obtain ⟨relay, _, ctrl, modc, inHand⟩ := Gate.abandoned_kept (g := c.gate) fun h hand => by
      rw [idle] at hand
      exact absurd hand.symm (Option.some_ne_none h)
    rw [abandoned]
    exact ⟨relay, ctrl, modc, inHand.trans idle⟩
  case notice =>
    have shown : (w.vacated k left).stateOf k = .empty := by rw [State.stateOf, State.vacated_cage]; rfl
    have waiting : ((w.vacated k left).cage k).slot = c.slot := by rw [State.vacated_cage]; exact slot
    have queued : (w.vacated k left).notice = s.notice.submit removed := congrArg (fun n => n.submit removed) notice
    rw [State.discardNotice, shown, waiting, queued]
    cases c.slot <;> rfl

end Sys2Proof.Machine
end

section
/-! SUPPORT. REMOVAL from RESTORE (R74, R135, R168), and the proof of O21. -/

namespace Sys2Proof.Machine

/-- A FILLING entry is left to the gate of the write that fills it (R168). -/
theorem Gate.detach_queued {g : Gate} {h : InHand} (hand : g.inHand = some h) (queued : h.place = .queued)
    (e : DeferEntry) : g.detach e = { g with inHand := some { h with place := .detached e } } := by
  simp only [Gate.detach, hand, if_pos queued]

/-- A cage whose deferred write queue has left, a FILLING entry to the gate alone (R168). -/
def Cage.unqueued (c : Cage) : Cage := { c with
  buffers := { c.buffers with queue := [] }
  gate := c.buffers.filling?.elim c.gate c.gate.detach }

/-- The queue leaves, and its COMPLETE entries are handed to the journal in queue order (R168). -/
theorem State.dropQueue_eq (s : State) (k : CageId) : s.dropQueue k =
    (s.modCage k Cage.unqueued).captureEntries k ((s.cage k).buffers.queue.filter fun e => !e.filling) := by
  unfold State.dropQueue
  dsimp only
  congr 1
  refine State.modCage_congr s k _ _ ?_
  unfold Cage.unqueued Buffers.filling?
  cases (s.cage k).buffers.queue.find? fun e => e.filling <;> rfl

/-- Everything the abandoning of a restore does beyond the queue's captures (R135): the buffers are empty and OPEN, the
directive slot is empty, and the channel is released. -/
theorem State.abandonRestore_frame (s : State) (ch : Fin 4) (k : CageId) :
    let u := s.dropQueue k
    let t := s.abandonRestore ch k
    t.cage k = { u.cage k with buffers := Buffers.fresh, slot := none } ∧ othersSame k u t ∧
    t.channels[ch] = { u.channels[ch] with ctx := none, delayRunning := false, delay := 0 } ∧
    (∀ b : Fin 4, b ≠ ch → t.channels[b] = u.channels[b]) ∧ t.notice = u.discardNotice k ∧
    t.staged = u.staged ∧ t.power = u.power ∧ t.store = u.store ∧ t.log = u.log ∧ t.loader = u.loader ∧
    t.pendingTiming = u.pendingTiming ∧ t.lineReset = u.lineReset ∧ t.pending = u.pending := by
  dsimp only
  unfold State.abandonRestore
  obtain ⟨cage, others, channels, staged, power, store, log, loader, notice, timing, lineReset, pending⟩ :=
    ((s.dropQueue k).clearBuffers k).discardSlot_becomes k
  have cleared : ((s.dropQueue k).clearBuffers k).cage k = { (s.dropQueue k).cage k with buffers := Buffers.fresh } :=
    State.modBuffers_cage_same _ k _
  rw [cleared] at cage
  have discards : ((s.dropQueue k).clearBuffers k).discardNotice k = (s.dropQueue k).discardNotice k := by
    unfold State.discardNotice State.stateOf
    rw [cleared]
    rfl
  have clearedOthers : othersSame k (s.dropQueue k) ((s.dropQueue k).clearBuffers k) :=
    fun j other => State.cage_modCage_other _ k j _ other
  refine ⟨cage, fun j other => (others j other).trans (clearedOthers j other), ?_, fun b other => ?_,
    notice.trans discards, staged, power, store, log, loader, timing, lineReset, pending⟩
  · refine (State.releaseChannel_same _ ch).trans ?_
    rw [channels]
    rfl
  · refine (State.modChannel_other _ ch b _ other).trans ?_
    rw [channels]
    rfl

/-- Settles O21: the cage leaves by `Cage.removed` and `Cage.unqueued`, its entries are captured from the state of that
moment, and the rest is `State.abandonRestore_frame`. -/
theorem removalAbandonsRestore : Obligations.RemovalAbandonsRestore := by
  unfold Obligations.RemovalAbandonsRestore
  intro k ch x s c present released served restoring held
  let w := s.modCage k fun c => { c with mpres := false }
  have emptied : w.cage k = { c with mpres := false } := State.cage_modCage_same s k _
  have leaves : (w.cage k).seq.state = .restore := by rw [emptied]; exact restoring
  have run := exec_removal_served present released served
    (by rw [show (s.cage k).seq.state = .restore from restoring]; exact CageState.noConfusion)
  rw [show (s.modCage k fun c => { c with mpres := false }) = w from rfl,
    show (s.cage k).seq.state = .restore from restoring, State.removeFrom_restoring leaves held, State.vacated,
    State.unlisted_other (s := w) (by simp [leaves]) (by simp [leaves]) (by simp [leaves])] at run
  let u := (w.modCage k (Cage.removed .restore)).submit (removedFrame k .restore)
  let es := c.buffers.queue.filter fun e => !e.filling
  let v := u.modCage k Cage.unqueued
  have vacated : u.cage k = ({ c with mpres := false } : Cage).removed .restore :=
    (State.cage_modCage_same w k _).trans (congrArg _ emptied)
  have unqueued : v.cage k = (({ c with mpres := false } : Cage).removed .restore).unqueued :=
    (State.cage_modCage_same u k _).trans (congrArg _ vacated)
  have drops : u.dropQueue k = v.captureEntries k es := by rw [State.dropQueue_eq, vacated]; rfl
  obtain ⟨⟨journal, captured⟩, others, channels, staged, power, loader, timing, lineReset, pending⟩ :=
    CaptureFrame.captureEntries k es v
  obtain ⟨cage', others', released', channels', notice', staged', power', store', log', loader', timing', lineReset',
    pending'⟩ := u.abandonRestore_frame ch k
  rw [drops] at cage' others' released' channels' notice' staged' power' store' log' loader' timing' lineReset' pending'
  have gate : ((u.abandonRestore ch k).cage k).gate =
      (({ c with mpres := false } : Cage).removed .restore).unqueued.gate := by
    rw [cage', captured, unqueued]
  refine ⟨v, _, run, ⟨rfl, rfl, rfl, rfl, by rw [unqueued]; rfl, by rw [unqueued]; rfl, by rw [unqueued]; rfl⟩,
    ⟨store', log', by rw [cage'], notice'.trans ?notice⟩, ?cage, fun h e hand defer queued filling => ?gate,
    fun j other => ?others, released'.trans ?freed, fun b other => (channels' b other).trans ?channels,
    staged'.trans staged, power'.trans power, loader'.trans loader, timing'.trans timing, lineReset'.trans lineReset,
    pending'.trans pending⟩
  case notice =>
    have shown : (v.captureEntries k es).stateOf k = .empty := by rw [State.stateOf, captured, unqueued]; rfl
    have waiting : ((v.captureEntries k es).cage k).slot = c.slot := by rw [captured, unqueued]; rfl
    rw [State.discardNotice, shown, waiting]
    cases c.slot <;> rfl
  case cage =>
    rw [cage', captured, unqueued]
    exact ⟨rfl, rfl, rfl, rfl, rfl, rfl, rfl, rfl, rfl, rfl, rfl⟩
  case gate =>
    obtain ⟨_, _, ctrl, modc, inHand⟩ := Gate.abandoned_kept (g := c.gate) fun i held => by
      rw [← Option.some.inj (hand.symm.trans held), defer]
      simp
    have detached : (({ c with mpres := false } : Cage).removed .restore).unqueued.gate = c.gate.abandoned.detach e := by
      show c.buffers.filling?.elim _ _ = _
      rw [filling]
      rfl
    rw [gate, detached, Gate.detach_queued (inHand.trans hand) queued]
    exact ⟨rfl, ctrl, modc⟩
  case others =>
    calc (u.abandonRestore ch k).cage j = (v.captureEntries k es).cage j := others' j other
      _ = v.cage j := others j other
      _ = u.cage j := State.cage_modCage_other u k j _ other
      _ = w.cage j := State.cage_modCage_other w k j _ other
      _ = s.cage j := State.cage_modCage_other s k j _ other
  case freed =>
    rw [channels]
    rfl
  case channels =>
    rw [channels]
    rfl

end Sys2Proof.Machine
end

section
/-! SUPPORT. The end of an attempt that is "not yet" or left unfinished (R57, R79, R84, R86), and the proof of O20. -/

namespace Sys2Proof.Machine

/-- PROBE_ATTEMPT_NOT_YET where the answers end the attempt in hand "not yet" (R84). -/
theorem exec_probeAttemptNotYet_notYet {s : State} {k : CageId} {answers : List Response} {m : ModCursor} {matched : Bool}
    (ends : s.attemptEnd k answers = some (m, .notYet matched)) :
    exec (.probeAttemptNotYet k answers) s = .next (s.attemptNotYet k m matched) := by
  simp only [exec, execProbeAttemptNotYet, ends]

/-- PROBE_ATTEMPT_NOT_YET where the answers leave the attempt in hand unfinished (R84). -/
theorem exec_probeAttemptNotYet_ongoing {s : State} {k : CageId} {answers : List Response} {m : ModCursor} {a : Attempt}
    (ends : s.attemptEnd k answers = some (m, .ongoing a)) :
    exec (.probeAttemptNotYet k answers) s = .next (s.attemptMore k m a) := by
  simp only [exec, execProbeAttemptNotYet, ends]

/-- What a match captures, by the state of the sequencer (R57, R79, R86). -/
theorem Seq.capture_eq (q : Seq) (matched : Bool) (began : Nat) :
    let first := matched && !q.bootCaptured && decide (q.state = .probe)
    q.capture matched began = { q with
      bootTime := if first then began else q.bootTime
      bootCaptured := q.bootCaptured || first
      powerTime := if matched = true ∧ q.state = .adopt then began else q.powerTime } := by
  simp only [Seq.capture, Bool.and_eq_true, decide_eq_true_eq]

/-- Settles O20: either end is one change of the cage, and `Seq.capture_eq` says what a match captures in it. -/
theorem notYetPacesNextAttempt : Obligations.NotYetPacesNextAttempt := by
  unfold Obligations.NotYetPacesNextAttempt
  intro k answers at' m matched s c attempt started unstuck free captured becomes
  have answered := s.attemptEnd_answered k answers at' attempt started unstuck free
  refine ⟨fun run => ⟨_, exec_probeAttemptNotYet_notYet (answered.trans (congrArg some run)), ?notYet⟩,
    fun a run => ⟨_, exec_probeAttemptNotYet_ongoing (answered.trans (congrArg some run)), ?ongoing⟩⟩
  case notYet =>
    refine cageBecomes_modCage ?_
    simp only [show (s.cage k).seq.attempt = some at' from attempt, Seq.capture_eq]
    rfl
  case ongoing =>
    refine cageBecomes_modCage ?_
    rw [show (s.cage k).gate.stallBusy = false from free, Seq.capture_eq]
    rfl

end Sys2Proof.Machine
end

section
/-! SUPPORT. The stop of an attempt at compare B that leads to FAULTED (R59, R67, R81, R85, R86), and the proof of O24. -/

namespace Sys2Proof.Machine

/-! ## What becomes of the transaction in progress -/

/-- The transaction that a stop with this answer leaves to be carried to its end (R85). -/
def Cage.leftToCarry (c : Cage) (answer : Option Response) : Option Trans :=
  match answer with
  | some _ => none
  | none => c.seqTrans?

/-- The module cursor after a stop with this answer (R10, R85). -/
def Cage.stoppedModc (c : Cage) (answer : Option Response) : ModCursor :=
  match c.seqTrans?, answer with
  | some tr, some r => c.gate.modc.account tr r
  | _, _ => c.gate.modc

/-- Every stop of an attempt, whether or not a transaction is in progress and answered (R85). -/
theorem State.stopAttempt_attemptStopped (s : State) (k : CageId) (answer : Option Response) :
    s.stopAttempt k answer = s.modCage k
      (Cage.attemptStopped (s.cage k).compareB ((s.cage k).leftToCarry answer) ((s.cage k).stoppedModc answer)) :=
  (s.stopAttempt_eq k answer).trans (State.modCage_congr s k _ _ rfl)

/-- The phase timer at the cursor return that follows a stop at compare B: RETURN from 0, or IDLE at compare B while a
transaction is carried to its end (R81, R85). -/
def Cage.stoppedTimer (c : Cage) (answer : Option Response) : PhaseTimer :=
  match c.seqTrans?, answer with
  | some _, none => { use := .idle, elapsed := max c.timer.elapsed c.compareB }
  | _, _ => { use := .ret, elapsed := 0 }

theorem Cage.stoppedTimer_eq (c : Cage) (answer : Option Response) : c.stoppedTimer answer =
    if (c.leftToCarry answer).isSome then { use := .idle, elapsed := max c.timer.elapsed c.compareB }
    else { use := .ret, elapsed := 0 } := by
  unfold Cage.stoppedTimer Cage.leftToCarry
  cases c.seqTrans? <;> cases answer <;> rfl

/-! ## The cursor return toward FAULTED -/

/-- The gate of a cage whose attempt is stopped, before a transaction in progress is accounted (log entry 35). -/
def Gate.unchecked (g : Gate) : Gate := if g.stuckForSeq then g.endStuck else g

theorem Gate.unchecked_kept (g : Gate) : g.unchecked.ctrl = g.ctrl ∧ g.unchecked.adoptionDue = g.adoptionDue := by
  unfold Gate.unchecked
  split <;> exact ⟨rfl, rfl⟩

theorem Seq.uncapture_captures (q : Seq) : q.uncapture.captures = q.attempt.elim q.captures Attempt.kept := by
  rw [Seq.uncapture_eq]
  rfl

/-- What a timeout makes of cage `d`, which was `r` before its adoption (R59, R67, R81, R85, R86). -/
def Cage.timedOut (r : Cage) (answer : Option Response) (mlpw : Bool) (d : Cage) : Cage :=
  let kept := r.seq.uncapture.captures
  { d with
    gate := { r.gate.unchecked with modc := r.stoppedModc answer }
    seq := { d.seq with
      bootTime := kept.bootTime, powerTime := kept.powerTime, bootCaptured := kept.bootCaptured, mlpw := mlpw,
      attempt := none, due := .none, started := !r.gate.unchecked.stallBusy, carried := r.leftToCarry answer,
      ret := some { target := .faulted, goal := r.gate.unchecked.ctrl, retry := .inHand } }
    timer := r.stoppedTimer answer }

/-- A cage with MLPW at this level. -/
def Cage.withMlpw (level : Bool) (c : Cage) : Cage := { c with seq := { c.seq with mlpw := level } }

/-- The stop of an attempt, MLPW at this level, and the cursor return toward FAULTED that follows, as a frame (R59, R67,
R90). -/
theorem State.startReturn_timedOut (s : State) (k : CageId) (answer : Option Response) (mlpw : Bool) :
    cageBecomes k ((s.cage k).timedOut answer mlpw ((s.adoptSeq k).cage k)) (s.adoptSeq k)
      (((s.modCage k (Cage.withMlpw mlpw)).stopAttempt k answer).startReturn k .faulted) := by
  let c := s.cage k
  let f : Cage → Cage := fun d =>
    (d.withMlpw mlpw).attemptStopped c.compareB (c.leftToCarry answer) (c.stoppedModc answer)
  have stops : (s.modCage k (Cage.withMlpw mlpw)).stopAttempt k answer = s.modCage k f := by
    rw [State.stopAttempt_attemptStopped, State.cage_modCage_same, State.modCage_modCage]
    rfl
  rw [stops, State.startReturn_modCage s k f .faulted (fun _ => rfl) (fun d => d.gate.unchecked_kept.2) (fun _ _ => rfl)]
  refine cageBecomes_modCage ?_
  obtain ⟨t, due, adopted⟩ := s.adoptSeq_cage k
  rw [adopted, Cage.timedOut, Cage.stoppedTimer_eq]
  rfl

theorem exec_bootTimeout {s : State} {k : CageId} (booting : (s.cage k).phase? = some .boot) (carried : Option Response) :
    exec (.bootTimeout k carried) s = .next (((s.logFault .bootTimeout (some k) 1
      (s.cage k).seq.hasMatched.toNat).stopAttempt k carried).startReturn k .faulted) := if_pos booting

/-- A fault shows nothing of MLPW (R197). -/
theorem State.logFault_withMlpw (s : State) (k : CageId) (level : Bool) (kind : FaultKind) (d1 d2 : Nat) :
    (s.modCage k (Cage.withMlpw level)).logFault kind (some k) d1 d2 =
      (s.logFault kind (some k) d1 d2).modCage k (Cage.withMlpw level) := by
  have entry : (s.modCage k (Cage.withMlpw level)).faultEntry kind (some k) d1 d2 = s.faultEntry kind (some k) d1 d2 := by
    simp only [State.faultEntry, Option.map_some, State.cage_modCage_same]
    rfl
  rw [State.logFault, entry]
  rfl

theorem exec_powerTimeout {s : State} {k : CageId} (powering : (s.cage k).phase? = some .power)
    (carried : Option Response) :
    exec (.powerTimeout k carried) s = .next (((((s.releaseDraw k).modCage k (Cage.withMlpw true)).logFault .powerTimeout
      (some k) 2 (s.cage k).compareB).stopAttempt k carried).startReturn k .faulted) := if_pos powering

theorem Seq.hasMatched_eq (q : Seq) : q.hasMatched = (q.bootCaptured || q.attempt.any Attempt.matched) := by
  unfold Seq.hasMatched
  cases q.attempt <;> rfl

/-- Settles O24: after its fault either timeout goes by `State.startReturn_timedOut`, BOOT_TIMEOUT with MLPW as it
stands. -/
theorem timeoutsLeadToFaulted : Obligations.TimeoutsLeadToFaulted := by
  unfold Obligations.TimeoutsLeadToFaulted
  intro k p a? b carried s c running matched fault goes
  have phase : (s.cage k).phase? = some p := by rw [Cage.phase?, show (s.cage k).timer.use = _ from running]
  have compareB : (s.cage k).compareB = b := by rw [Cage.compareB, show (s.cage k).timer.use = _ from running]
  have goes_timedOut (r d : Cage) (mlpw : Bool) : goes r d mlpw = r.timedOut carried mlpw d := by
    rw [Cage.timedOut, Seq.uncapture_captures, r.gate.unchecked_kept.1]
    rfl
  refine ⟨fun boot => ?boot, fun power => ?power⟩
  case boot =>
    subst boot
    intro a
    refine ⟨_, exec_bootTimeout phase carried, ?_⟩
    rw [goes_timedOut, Seq.hasMatched_eq]
    have returns := (s.takeFault (fault c .bootTimeout 1 matched.toNat)).startReturn_timedOut k carried c.seq.mlpw
    rw [State.modCage_id (s.takeFault _) k (Cage.withMlpw c.seq.mlpw) rfl] at returns
    exact returns
  case power =>
    subst power
    intro released r a
    refine ⟨State.unitTests_unlisted (s := s.modPower fun p => p.release k), _, exec_powerTimeout phase carried, ?_⟩
    have uptime : released.log.uptime = s.log.uptime :=
      congrArg FaultLog.uptime (UnitKeeps.unitTests (s.modPower fun p => p.release k)).log
    have entry : released.faultEntry .powerTimeout (some k) 2 b = fault r .powerTimeout 2 b := by
      rw [State.faultEntry, uptime]
      rfl
    have logged : (s.releaseDraw k).logFault .powerTimeout (some k) 2 b =
        released.takeFault (fault r .powerTimeout 2 b) := congrArg released.takeFault entry
    rw [goes_timedOut, State.logFault_withMlpw, compareB, logged]
    exact (released.takeFault (fault r .powerTimeout 2 b)).startReturn_timedOut k carried true

end Sys2Proof.Machine
end

section
/-! SUPPORT. The ends of the busy schedule at a retry and at the write-busy limit (R88, R116, R133), and the proof of O29. -/

namespace Sys2Proof.Machine

/-- BUSY_RETRY_DUE of a sequencer's cursor return, its transaction begun anew (R88; log entry 3). -/
theorem exec_busyRetryDue_return {s : State} {k : CageId} {r : SeqReturn} {v : Nat} (ret : (s.cage k).seq.ret = some r)
    (due : r.retry = .due v) :
    exec (.busyRetryDue k) s = .next (s.modCage k fun c => { c with
      timer := { c.timer with elapsed := max c.timer.elapsed v }
      seq := { c.seq with ret := some { r with retry := .inHand }, started := !c.gate.stallBusy } }) := by
  simp only [exec, execBusyRetryDue, ret, due]
  unfold State.reach State.modReturn State.modSeq
  rw [State.modCage_modCage, State.modCage_modCage]
  refine congrArg Host.Outcome.next (State.modCage_congr s k _ _ ?_)
  simp only [ret, Option.map_some]

/-- BUSY_RETRY_DUE of a channel's transaction, begun anew (R88; log entry 3). -/
theorem exec_busyRetryDue_channel {s : State} {k : CageId} {ch : Fin 4} {x : ChannelCtx} {v : Nat}
    (noReturn : (s.cage k).seq.ret = none) (held : s.channelOf k = some (ch, x)) (due : x.retry = .due v) :
    exec (.busyRetryDue k) s = .next (s.modChannel ch fun h => { h with
      ctx := some { x with retry := .inHand, pointed := false }, delay := max h.delay v }) := by
  simp only [exec, execBusyRetryDue, noReturn, held, due]
  rw [State.setCtx, State.modChannel_modChannel]

/-- A channel whose delay timer has reached the write-busy limit (log entry 3). -/
def Channel.atLimit (h : Channel) : Channel := { h with delay := max h.delay h.active.writeBusy }

/-- WRITE_BUSY_LIMIT of a channel's transaction (R88, R116). -/
theorem exec_writeBusyLimit_channel {s : State} {k : CageId} {ch : Fin 4} {x : ChannelCtx}
    (noReturn : (s.cage k).seq.ret = none) (held : s.channelOf k = some (ch, x)) (limit : x.retry = .limit) :
    exec (.writeBusyLimit k) s = .next ((s.modChannel ch Channel.atLimit).chanLimit ch x) := by
  simp only [exec, execWriteBusyLimit, noReturn, held, limit]
  rfl

/-- The sheet and position that a record write aims at, a sheet select's being its sheet and 125 (R133, R198). -/
def Record.silentPlace (w : Record) (m : ModCursor) : Nat × Nat :=
  match w.area with
  | .base => (255, w.start)
  | .sheet n => if m.sheet = some n then (n.toNat, w.start) else (n.toNat, 125)

theorem Record.details_next (w : Record) (m : ModCursor) :
    (w.writeAccess.next m false).details w.area w.start = w.silentPlace m := by
  unfold Record.silentPlace
  cases area : w.area with
  | base => simp [Record.writeAccess, area, Access.next, Access.sheet?, Access.body, Trans.details, Area.detail]
  | sheet n =>
    by_cases there : m.sheet = some n <;>
      simp [Record.writeAccess, area, Access.next, Access.sheet?, Access.body, Trans.details, Area.detail, there]

/-- The write-busy limit of a record write off the FORGET path: SILENT and the failure path (R116, R133). -/
theorem State.chanLimit_write (s : State) (ch : Fin 4) {x : ChannelCtx} {w : Record} (work : x.work = .write w)
    (path : x.path ≠ .forgotten) :
    let place := w.silentPlace (s.cage x.cage).gate.modc
    s.chanLimit ch x = (s.logFault .silent (some x.cage) place.1 place.2).failRestore ch x := by
  dsimp only
  rw [← Record.details_next]
  unfold State.chanLimit
  -- The hypothesis `path`, which `simp` finds in the context, excludes the branch of the FORGET path.
  simp only [work, ChanWork.access?, ChanWork.aim]

/-- A frame from a state in which the channel has already changed. -/
theorem bothBecome_of_modChannel {k : CageId} {c : Cage} {ch : Fin 4} {h : Channel} {s t : State} {g : Channel → Channel}
    (hb : bothBecome k c ch h (s.modChannel ch g) t) : bothBecome k c ch h s t := by
  obtain ⟨cage, others, channel, channels, rest⟩ := hb
  exact ⟨cage, others, channel, fun d other => (channels d other).trans (State.modChannel_other s ch d g other), rest⟩

/-- Settles O29: a retry is one change of the cage or the channel, and the limit is SILENT with the failure path of
`State.failRestore_frame`. -/
theorem busyScheduleEnds : Obligations.BusyScheduleEnds := by
  unfold Obligations.BusyScheduleEnds
  intro k s c
  refine ⟨fun r v ret due => ⟨_, exec_busyRetryDue_return ret due, cageBecomes_modCage rfl⟩,
    fun ch x noReturn held => ⟨fun v due =>
      ⟨_, exec_busyRetryDue_channel noReturn held due, channelBecomes_modChannel rfl⟩,
    fun w limit work path empty => ⟨_, exec_writeBusyLimit_channel noReturn held limit, ?silent⟩⟩⟩
  case silent =>
    obtain rfl := State.channelOf_cage held
    let place := w.silentPlace c.gate.modc
    let u := (s.modChannel ch Channel.atLimit).logFault .silent (some x.cage) place.1 place.2
    have own : u.channels[ch] = s.channels[ch].atLimit := State.modChannel_same s ch _
    have fails := u.failRestore_frame ch x x.cage rfl empty
    rw [own] at fails
    rw [State.chanLimit_write _ ch work path]
    exact bothBecome_of_modChannel (s := s.takeFault (s.faultEntry .silent (some x.cage) place.1 place.2))
      (g := Channel.atLimit) fails

end Sys2Proof.Machine
end

section
/-! SUPPORT. The power rule through every step, and the proof of O58. -/

namespace Sys2Proof.Machine

/-- A unit with no charge meets the power rule whatever its budget (R102). -/
theorem Power.sound_of_uncharged {p : Power} (uncharged : p.charges = []) : p.sound := by
  left
  rw [Power.committed, uncharged]
  exact Nat.zero_le _

/-! ## The end of a reset load (R78, R95, R201) -/

theorem State.startPhase_power (s : State) (k : CageId) (p : Phase) : (s.startPhase k p).power = s.power := by
  obtain ⟨-, -, -, -, power, -⟩ := s.adoptSeq_facts k
  exact power

/-- A cage that waited for the load goes on without the Power Admission Unit (R78). -/
theorem State.leaveWaiting_power (s : State) (k : CageId) : (s.leaveWaiting k).power = s.power := by
  unfold State.leaveWaiting
  dsimp only
  split
  · exact State.startPhase_power _ k .adopt
  · split
    · exact State.startPhase_power _ k .settle
    · rfl

theorem State.logFinding_power (s : State) (t : Trigger) (f : Finding) : (s.logFinding t f).power = s.power := by
  cases f <;> rfl

/-- A reset load installs a fresh unit, without list or charges (R95). -/
theorem State.endResetLoad_power (s : State) (t : Trigger) (img : List Byte) :
    (s.endResetLoad t img).power = Power.fresh ((finding img).installed img) := by
  rw [State.endResetLoad_eq]
  refine List.foldlRecOn (motive := fun u : State => u.power = Power.fresh ((finding img).installed img)) _ _ ?_
    fun u fresh k _ => (u.leaveWaiting_power k).trans fresh
  exact State.logFinding_power _ t (finding img)

/-! ## The end of a RELOAD's load (R103, R203) -/

/-- A GOOD RELOAD hands on a pending budget, which the power rule does not read; then the unit makes its tests (R103). -/
theorem State.handOn_sound {s : State} (sound : s.power.sound) (img : List Byte) : (s.handOn img).power.sound :=
  (Keeps.refl 0 _).unitTests.power sound

theorem State.endReload_sound {s : State} (sound : s.power.sound) (img : List Byte) : (s.endReload img).power.sound := by
  unfold State.endReload
  have handed (l : Loader) : (State.handOn { s with loader := l } img).power.sound :=
    State.handOn_sound (s := { s with loader := l }) sound img
  cases finding img with
  | good => exact handed _
  | bad cause => exact sound
  | absent => exact sound

/-! ## Every step -/

/-- A meaning that answers only next states in which the power rule holds. -/
def PowerNext (r : Result) : Prop := ∀ t : State, r = .next t → t.power.sound

theorem PowerNext.next {t : State} (sound : t.power.sound) : PowerNext (.next t) := by
  intro u answered
  rw [← Host.Outcome.next.inj answered]
  exact sound

theorem execLineResetAssert_power {s : State} (sound : s.power.sound) : PowerNext (execLineResetAssert s) := by
  unfold execLineResetAssert
  split
  · exact .next sound
  · exact .next (Power.sound_of_uncharged rfl)

theorem execLineResetRelease_power {s : State} (sound : s.power.sound) : PowerNext (execLineResetRelease s) := by
  unfold execLineResetRelease
  split <;> exact .next sound

theorem execResetProfileLoadEnd_power (flash : List Byte) {s : State} (sound : s.power.sound) :
    PowerNext (execResetProfileLoadEnd flash s) := by
  have ended (t : Trigger) : (s.endResetLoad t flash).power.sound := by
    rw [State.endResetLoad_power]
    exact Power.sound_of_uncharged rfl
  unfold execResetProfileLoadEnd
  split
  · exact .next (ended .powerOn)
  · exact .next (ended .lineReset)
  · exact .next sound

theorem execReloadLoadEnd_power (flash : List Byte) {s : State} (sound : s.power.sound) :
    PowerNext (execReloadLoadEnd flash s) := by
  unfold execReloadLoadEnd
  split
  · exact .next (State.endReload_sound sound flash)
  · exact .next sound

theorem execPendingBudgetAdopt_power {s : State} (sound : s.power.sound) : PowerNext (execPendingBudgetAdopt s) := by
  unfold execPendingBudgetAdopt
  split
  · exact .next ((Keeps.refl 0 s).unitTests.power sound)
  · exact .next sound

theorem execChannelGrant_power {s : State} (sound : s.power.sound) : PowerNext (execChannelGrant s) := by
  unfold execChannelGrant
  split
  · rename_i k rest c _ _
    exact .next ((Keeps.refl k s).setStaged.grant.power sound)
  · exact .next sound

theorem exec_power_partWide {i : Instr} (partWide : Instr.cage? i = none) {s : State} (sound : s.power.sound) :
    PowerNext (exec i s) := by
  cases i <;> cases partWide
  case powerOn => exact .next (Power.sound_of_uncharged rfl)
  case lineResetAssert => exact execLineResetAssert_power sound
  case lineResetRelease => exact execLineResetRelease_power sound
  case resetProfileLoadEnd flash => exact execResetProfileLoadEnd_power flash sound
  case reloadLoadEnd flash => exact execReloadLoadEnd_power flash sound
  case pendingBudgetAdopt => exact execPendingBudgetAdopt_power sound
  case admission => exact .next ((Keeps.refl 0 s).checkHead.power sound)
  case channelGrant => exact execChannelGrant_power sound
  case noticeFrameSent => exact .next sound

/-- Every command keeps the power rule: a cage's by what it keeps, the part's own one by one. -/
theorem exec_power (i : Instr) {s : State} (sound : s.power.sound) : PowerNext (exec i s) := by
  cases addressed : Instr.cage? i with
  | some k =>
    obtain ⟨t, answered, kept⟩ := exec_keepsNext addressed s
    rw [answered]
    exact .next (kept.power sound)
  | none => exact exec_power_partWide addressed sound

theorem State.tick_power (s : State) : s.tick.power = s.power := by
  unfold State.tick
  dsimp only
  split <;> rfl

theorem State.idle_power {s : State} (sound : s.power.sound) : PowerNext s.idle := by
  unfold State.idle
  split
  · exact exec_power .pendingBudgetAdopt sound
  · split
    · exact exec_power .admission sound
    · split
      · exact exec_power .channelGrant sound
      · exact .next (by rw [State.tick_power]; exact sound)

/-- Settles O58: a command by `exec_power`, an empty queue by `State.idle_power`. -/
theorem stepKeepsPowerRule : Obligations.StepKeepsPowerRule := by
  unfold Obligations.StepKeepsPowerRule
  intro s t sound stepped
  unfold step at stepped
  split at stepped
  · rename_i c rest _
    exact exec_power c (s := { s with pending := rest }) sound t stepped
  · exact State.idle_power sound t stepped

end Sys2Proof.Machine
end

section
/-! SUPPORT. The check of the list's head (R100, R101), and the proof of O30. -/

namespace Sys2Proof.Machine

theorem Power.passes_iff {p : Power} {d : Nat} : p.passes d = true ↔ p.committed + d ≤ p.limit ∨ p.committed = 0 := by
  simp only [Power.passes, Bool.or_eq_true, decide_eq_true_eq]

theorem State.checkHead_nil {s : State} (empty : s.power.list = []) : s.checkHead = s := by
  rw [State.checkHead, empty, State.admitHeads]

/-- The check stops at a head that does not pass (R100). -/
theorem State.checkHead_stops {s : State} {e : AdmissionEntry} {rest : List AdmissionEntry}
    (listed : s.power.list = e :: rest) (fails : ¬ s.power.passes e.draw = true) : s.checkHead = s := by
  rw [State.checkHead, listed, State.admitHeads, if_neg fails]

/-- The part once the head of its list is admitted, before the next head is checked (R101). -/
def State.headAdmitted (s : State) (e : AdmissionEntry) (rest : List AdmissionEntry) : State :=
  (s.modPower fun p => p.charge e rest).toPowerup e.cage

theorem State.headAdmitted_power (s : State) (e : AdmissionEntry) (rest : List AdmissionEntry) :
    (s.headAdmitted e rest).power = s.power.charge e rest := by
  obtain ⟨-, -, power, -⟩ := (s.modPower fun p => p.charge e rest).toPowerup_shared e.cage
  exact power

/-- A head that passes is admitted, and the head after it is checked in the state that leaves (R101). -/
theorem State.checkHead_admits {s : State} {e : AdmissionEntry} {rest : List AdmissionEntry}
    (listed : s.power.list = e :: rest) (passes : s.power.passes e.draw = true) :
    s.checkHead = (s.headAdmitted e rest).checkHead := by
  have left : (s.headAdmitted e rest).power.list = rest := congrArg Power.list (s.headAdmitted_power e rest)
  rw [State.checkHead, listed, State.admitHeads, if_pos passes, State.checkHead, left]
  rfl

/-- The step into POWERUP at an admission, as a frame after the adoption of R90 (R65, R82, R83). -/
theorem State.toPowerup_becomes (s : State) (k : CageId) :
    let a := s.adoptSeq k
    let c := a.cage k
    cageBecomes k { c with
      seq := { c.seq with state := .powerup, adoptPending := false, mlpw := false, pint := false,
                          ppres := ppresFor s.profile.policy .powerup, attempt := none, due := .compareA,
                          bootCaptured := false, ret := none, started := false }
      timer := { use := .phase .power (some c.seq.active.powerFirst) c.seq.active.powerLimit, elapsed := 0 } }
      a (s.toPowerup k) := by
  unfold State.toPowerup State.startPhase State.enter
  rw [State.adoptSeq_modCage s k _ (by exact fun _ => rfl) (by exact fun _ => rfl) (by exact fun _ _ => rfl),
    State.modCage_modCage]
  exact cageBecomes_modCage rfl

/-- Settles O30: the three outcomes of the check at an empty list, a head that does not pass and one that does, which is
admitted as `State.toPowerup_becomes` says. -/
theorem admissionInListOrder : Obligations.AdmissionInListOrder := by
  unfold Obligations.AdmissionInListOrder
  intro s committed limit
  refine ⟨rfl, fun empty => congrArg Host.Outcome.next (State.checkHead_nil empty),
    fun e rest listed => ⟨fun exceeds charged => ?stops, fun fits => ?admits⟩⟩
  case stops =>
    refine congrArg Host.Outcome.next (State.checkHead_stops listed ?_)
    rw [Power.passes_iff]
    exact not_or.2 ⟨Nat.not_le.2 exceeds, Nat.ne_of_gt charged⟩
  case admits =>
    have admitted := State.checkHead_admits listed (Power.passes_iff.2 fits)
    exact ⟨s.headAdmitted e rest, congrArg Host.Outcome.next admitted,
      (s.modPower fun p => p.charge e rest).toPowerup_becomes e.cage⟩

end Sys2Proof.Machine
end

section
/-! SUPPORT. The adoption of a pending budget (R104), and the proof of O12. -/

namespace Sys2Proof.Machine

theorem Power.adoptionHolds_none {p : Power} (absent : p.pendingBudget = none) : p.adoptionHolds = false := by
  rw [Power.adoptionHolds, absent]

theorem Power.adoptionHolds_some {p : Power} {b : Nat} (pending : p.pendingBudget = some b) :
    p.adoptionHolds = true ↔ p.committed ≤ b ∨ p.charges.length ≤ 1 := by
  simp only [Power.adoptionHolds, pending, Bool.or_eq_true, decide_eq_true_eq]

theorem Power.adopt_of_holds {p : Power} {b : Nat} (pending : p.pendingBudget = some b)
    (holds : p.adoptionHolds = true) : p.adopt = { p with budget := b, pendingBudget := none } := by
  simp only [Power.adopt, pending, holds, if_true]

theorem Power.adopt_of_not_holds {p : Power} (waits : p.adoptionHolds = false) : p.adopt = p := by
  unfold Power.adopt
  split
  · rfl
  · rw [waits, if_neg Bool.false_ne_true]

/-- Where no budget may be adopted PENDING_BUDGET_ADOPT does nothing, and the unit's tests are the head's check (R104). -/
theorem exec_pendingBudgetAdopt_waits {s : State} (waits : s.power.adoptionHolds = false) :
    exec .pendingBudgetAdopt s = .next s ∧ exec .admission s = .next s.unitTests := by
  have tests : s.unitTests = s.checkHead := by
    rw [State.unitTests, State.modPower, Power.adopt_of_not_holds waits]
  refine ⟨congrArg _ (if_neg ?_), by rw [tests]; rfl⟩
  rw [waits]
  exact Bool.false_ne_true

/-- A budget that may be adopted is, and the head is checked under it (R104). -/
theorem exec_pendingBudgetAdopt_adopts {s : State} {b : Nat} (pending : s.power.pendingBudget = some b)
    (holds : s.power.adoptionHolds = true) :
    exec .pendingBudgetAdopt s = .next s.unitTests ∧
    exec .admission { s with power := { s.power with budget := b, pendingBudget := none } } = .next s.unitTests := by
  refine ⟨congrArg _ (if_pos holds), ?_⟩
  rw [State.unitTests, State.modPower, Power.adopt_of_holds pending holds]
  rfl

/-- Settles O12: with a budget pending the adoption holds as `Power.adoptionHolds_some` says, with none it does not. -/
theorem pendingBudgetAdoption : Obligations.PendingBudgetAdoption := by
  unfold Obligations.PendingBudgetAdoption
  refine fun s => ⟨fun absent => exec_pendingBudgetAdopt_waits (Power.adoptionHolds_none absent),
    fun b pending => ⟨fun fits => ?adopts, fun ⟨exceeds, several⟩ => ?waits⟩⟩
  case adopts => exact exec_pendingBudgetAdopt_adopts pending ((Power.adoptionHolds_some pending).2 fits)
  case waits =>
    refine exec_pendingBudgetAdopt_waits (Bool.eq_false_iff.2 ?_)
    rw [Ne, Power.adoptionHolds_some pending]
    exact not_or.2 ⟨Nat.not_le.2 exceeds, Nat.not_le.2 several⟩

end Sys2Proof.Machine
end

section
/-! SUPPORT. What one answer makes of the access of a channel (R14, R114, R119, R126, R129, R130), and each command that ends
a transaction of a channel by what the access came to. -/

namespace Sys2Proof.Machine

/-! ## One answer to a transaction of an access -/

/-- An access whose sheet the module holds, or that needs none, makes its own transaction next (R14, R16, R126, R129). -/
theorem Access.next_there {a : Access} {m : ModCursor} (there : ∀ n, a.sheet? = some n → m.sheet = some n)
    (pointed : Bool) : a.next m pointed = a.body pointed := by
  unfold Access.next
  cases wanted : a.sheet? with
  | none => rfl
  | some n => cases pointed <;> simp [there n wanted]

/-- A combined read whose pointer is written goes on with its read (R8). -/
theorem Access.next_pointed (a : Access) (m : ModCursor) {pointed : Bool} (written : pointed = true) :
    a.next m pointed = a.body true := by
  rw [written, Access.next]
  cases a.sheet? <;> rfl

/-- An access whose sheet the module does not hold makes a sheet select first (R14, R16, R126, R129). -/
theorem Access.next_select {a : Access} {m : ModCursor} {pointed : Bool} {n : Byte} (begins : pointed = false)
    (wanted : a.sheet? = some n) (other : m.sheet ≠ some n) : a.next m pointed = .select n := by
  simp [Access.next, begins, wanted, other]

section
variable {a : Access} {m : ModCursor} {pointed : Bool}

/-- A sheet select TAKEN goes on to the transaction that follows it (R14). -/
theorem Access.run_select_taken {n : Byte} (next : a.next m pointed = .select n) (bs : List Byte) :
    a.run m pointed false [.taken bs] =
      { modc := { sheet := some n, pointer := some 126 }, ended := .more false, rest := [], progress := true } := by
  rw [Access.run, next]
  rfl

/-- A refused byte of a sheet select ends the access, the offset taken (R10, R14). -/
theorem Access.run_select_refused {n : Byte} (next : a.next m pointed = .select n) (b : Nat) :
    a.run m pointed false [.refused b] = { modc := { m with pointer := some 125 }, ended := .refused (.select n) 0,
                                           rest := [], progress := false } := by
  rw [Access.run, next]
  rfl

/-- A write TAKEN ends the access (R10, R14). -/
theorem Access.run_write_taken {o : Byte} {d : List Byte} (next : a.next m pointed = .write o d) (bs : List Byte) :
    a.run m pointed false [.taken bs] = { modc := m.wrote o d, ended := .done [], rest := [], progress := false } := by
  rw [Access.run, next]
  rfl

/-- A refused byte of a write ends the access, the bytes before it taken (R10, R14). -/
theorem Access.run_write_refused {o : Byte} {d : List Byte} (next : a.next m pointed = .write o d) (b : Nat) :
    let took := min b (d.length - 1)
    a.run m pointed false [.refused b] = { modc := m.wrote o (d.take took), ended := .refused (.write o d) took, rest := [],
                                           progress := false } := by
  rw [Access.run, next]
  rfl

/-- A read TAKEN ends the access with its bytes (R8, R10, R14). -/
theorem Access.run_read_taken {n : Nat} (next : a.next m pointed = .read n) (bs : List Byte) :
    a.run m pointed false [.taken bs] = { modc := m.step n, ended := .done (readBytes n bs), rest := [],
                                          progress := false } := by
  rw [Access.run, next]
  rfl

end

/-- The pointer write of a cursor return TAKEN ends it (R16). -/
theorem Access.run_return_taken {goal : Cursor} {m : ModCursor} (there : m.sheet = some goal.sheet) (pointed : Bool)
    (bs : List Byte) : (Access.ret goal).run m pointed false [.taken bs] =
      { modc := { m with pointer := some goal.pointer }, ended := .done [], rest := [], progress := false } := by
  have next : (Access.ret goal).next m pointed = .pointer goal.pointer :=
    Access.next_there (a := .ret goal) (fun _ wanted => there.trans wanted) pointed
  rw [Access.run, next]
  rfl

/-- A record whose sheet the module holds is written next (R114). -/
theorem Record.next_write {r : Record} {m : ModCursor} (there : ∀ n, r.area = .sheet n → m.sheet = some n)
    (pointed : Bool) : r.writeAccess.next m pointed = .write (BitVec.ofNat 8 r.start) r.data := by
  refine Access.next_there (fun n wanted => there n ?_) pointed
  cases area : r.area with
  | base => simp [Record.writeAccess, area, Access.sheet?] at wanted
  | sheet n => simpa [Record.writeAccess, area, Access.sheet?] using wanted

/-- A record on a sheet that the module does not hold waits for its sheet select (R114). -/
theorem Record.next_select {r : Record} {m : ModCursor} {pointed : Bool} {n : Byte} (begins : pointed = false)
    (area : r.area = .sheet n) (other : m.sheet ≠ some n) : r.writeAccess.next m pointed = .select n :=
  Access.next_select begins (by rw [Record.writeAccess, area]; rfl) other

/-! ## A cage with one part changed -/

/-- A cage whose deferred write queue takes no new entries (R163). -/
def Cage.closed (c : Cage) : Cage := { c with buffers := { c.buffers with closed := true } }

/-- A cage with this directive slot. -/
def Cage.withSlot (d : Option Directive) (c : Cage) : Cage := { c with slot := d }

/-- A cage with this module cursor. -/
def Cage.withModc (m : ModCursor) (c : Cage) : Cage := { c with gate := { c.gate with modc := m } }

/-- The part with this module cursor of cage `k`. -/
def State.withModc (s : State) (k : CageId) (m : ModCursor) : State := s.modCage k (Cage.withModc m)

@[simp] theorem State.withModc_cage (s : State) (k : CageId) (m : ModCursor) :
    (s.withModc k m).cage k = (s.cage k).withModc m := State.cage_modCage_same s k _

@[simp] theorem State.withModc_channels (s : State) (k : CageId) (m : ModCursor) :
    (s.withModc k m).channels = s.channels := rfl

theorem State.withModc_same (s : State) (k : CageId) : s.withModc k (s.cage k).gate.modc = s := State.modCage_id s k _ rfl

/-! ## The commands -/

theorem ChannelCtx.answerable_of {x : ChannelCtx} (retry : x.retry = .inHand) (stuck : x.stuck = .none) :
    x.answerable = true := by
  rw [ChannelCtx.answerable, retry, stuck]
  rfl

/-- A transaction in hand takes its answers, and the module cursor is accounted (R14). -/
theorem State.runChannel_answered {s : State} {x : ChannelCtx} {a : Access} {answers : List Response} {run : AccessRun}
    (waits : x.answerable = true) (access : x.work.access? s.profile.fetchLen = some a)
    (ran : a.run (s.cage x.cage).gate.modc x.pointed false answers = run) :
    (if x.answerable then s.runChannel x answers else none) = some (s.withModc x.cage run.modc, run) := by
  rw [if_pos waits, State.runChannel, access, ← ran]
  rfl

section
variable {s : State} {k : CageId} {ch : Fin 4} {x : ChannelCtx} (held : s.channelOf k = some (ch, x))
  (waits : x.answerable = true) {m : ModCursor} {rest : List Response} {progress : Bool}
include held waits

/-! RECORD_WRITE_END (R114, R116, R117). -/

section
variable {r : Record} (work : x.work = .write r) {answer : Response} {ended : AccessEnd}
  (ran : r.writeAccess.run (s.cage k).gate.modc x.pointed false [answer] = ⟨m, ended, rest, progress⟩)
include work ran

theorem exec_recordWriteEnd_more {pointed : Bool} (more : ended = .more pointed) :
    exec (.recordWriteEnd k answer) s = .next ((s.withModc k m).chanMore ch x pointed true) := by
  obtain rfl := State.channelOf_cage held
  simp only [exec, execRecordWriteEnd, held, work,
    State.runChannel_answered waits (congrArg (ChanWork.access? _) work) ran, more]

theorem exec_recordWriteEnd_busy (busy : ended = .busy) :
    exec (.recordWriteEnd k answer) s = .next ((s.withModc k m).chanBusy ch x progress) := by
  obtain rfl := State.channelOf_cage held
  simp only [exec, execRecordWriteEnd, held, work,
    State.runChannel_answered waits (congrArg (ChanWork.access? _) work) ran, busy]

theorem exec_recordWriteEnd_refused {t : Trans} {n : Nat} (refused : ended = .refused t n) :
    let place := t.details r.area (r.start + n)
    exec (.recordWriteEnd k answer) s = .next ((s.withModc k m).segmentFailed ch x place.1 place.2) := by
  obtain rfl := State.channelOf_cage held
  simp only [exec, execRecordWriteEnd, held, work,
    State.runChannel_answered waits (congrArg (ChanWork.access? _) work) ran, refused]

theorem exec_recordWriteEnd_done {bytes : List Byte} (done : ended = .done bytes) :
    exec (.recordWriteEnd k answer) s = .next ((s.withModc k m).recordWritten ch x) := by
  obtain rfl := State.channelOf_cage held
  simp only [exec, execRecordWriteEnd, held, work,
    State.runChannel_answered waits (congrArg (ChanWork.access? _) work) ran, done]

end

/-- VERIFY_READ_END of a read that is TAKEN (R119, R120). -/
theorem exec_verifyReadEnd_done {r : Record} (work : x.work = .verify r) {answers : List Response} {bytes : List Byte}
    (ran : r.readAccess.run (s.cage k).gate.modc x.pointed false answers = ⟨m, .done bytes, rest, progress⟩) :
    exec (.verifyReadEnd k answers) s = .next ((s.withModc k m).verifyCompared ch x r bytes) := by
  obtain rfl := State.channelOf_cage held
  simp only [exec, execVerifyReadEnd, held, work,
    State.runChannel_answered waits (congrArg (ChanWork.access? _) work) ran]

/-- DELAYED_READ_FETCH_END of a fetch that is TAKEN (R126, R127). -/
theorem exec_delayedReadFetchEnd_done {loc : Cursor} (work : x.work = .fetch loc) {answers : List Response}
    {bytes : List Byte} (ran : (Access.fetch loc s.profile.fetchLen).run (s.cage k).gate.modc x.pointed false answers =
      ⟨m, .done bytes, rest, progress⟩) :
    exec (.delayedReadFetchEnd k answers) s = .next (((s.withModc k m).modBuffers k fun b =>
      b.fetched bytes s.channels[ch].active.readDiscard).startSegment ch x (x.segIndex + 1)) := by
  obtain rfl := State.channelOf_cage held
  simp only [exec, execDelayedReadFetchEnd, held, work,
    State.runChannel_answered waits (congrArg (ChanWork.access? _) work) ran, State.withModc_channels]

/-- DELAYED_READ_FETCH_END of a fetch that is REFUSED (R126). -/
theorem exec_delayedReadFetchEnd_refused {loc : Cursor} (work : x.work = .fetch loc) {answers : List Response} {t : Trans}
    {n : Nat} (ran : (Access.fetch loc s.profile.fetchLen).run (s.cage k).gate.modc x.pointed false answers =
      ⟨m, .refused t n, rest, progress⟩) :
    exec (.delayedReadFetchEnd k answers) s = .next ((((s.withModc k m).modBuffers k Buffers.fetchRefused).count k
      Counters.readDiscard).startSegment ch x (x.segIndex + 1)) := by
  obtain rfl := State.channelOf_cage held
  simp only [exec, execDelayedReadFetchEnd, held, work,
    State.runChannel_answered waits (congrArg (ChanWork.access? _) work) ran]

/-- DEFERRED_WRITE_APPLIED of a write that has ended, TAKEN or REFUSED (R129). -/
theorem exec_deferredWriteApplied_ended {e : DeferEntry} (work : x.work = .apply e) {answers : List Response}
    {ended : AccessEnd} (ran : e.access.run (s.cage k).gate.modc x.pointed false answers = ⟨m, ended, rest, progress⟩)
    (isOver : (∃ bytes, ended = .done bytes) ∨ ∃ t n, ended = .refused t n) :
    exec (.deferredWriteApplied k answers) s = .next ((s.withModc k m).entryApplied ch x e) := by
  obtain rfl := State.channelOf_cage held
  obtain ⟨bytes, rfl⟩ | ⟨t, n, rfl⟩ := isOver <;>
    simp only [exec, execDeferredWriteApplied, held, work,
      State.runChannel_answered waits (congrArg (ChanWork.access? _) work) ran]

/-- CURSOR_RETURN_TRANSACTION_END of a channel's return that is COMPLETE (R16, R130). -/
theorem exec_cursorReturnTransactionEnd_channel {goal : Cursor} (noReturn : (s.cage k).seq.ret = none)
    (work : x.work = .ret goal) {answer : Response} {bytes : List Byte}
    (ran : (Access.ret goal).run (s.cage k).gate.modc x.pointed false [answer] = ⟨m, .done bytes, rest, progress⟩) :
    exec (.cursorReturnTransactionEnd k answer) s = .next ((s.withModc k m).compareReturn ch x goal true) := by
  obtain rfl := State.channelOf_cage held
  have answered := State.runChannel_answered waits (congrArg (ChanWork.access? s.profile.fetchLen) work) ran
  rw [if_pos waits] at answered
  simp only [exec, execCursorReturnTransactionEnd, noReturn, held, work, if_pos waits, State.chanReturnEnd, answered]

end

end Sys2Proof.Machine
end

section
/-! SUPPORT. The ends of a delayed read's fetch and of the discard timer (R93, R126, R127), and the proof of O34. -/

namespace Sys2Proof.Machine

/-- The next segment begun after a change of the cage that leaves its journal alone (R113, R114). -/
theorem State.startSegment_becomes {s : State} {k : CageId} (ch : Fin 4) {x : ChannelCtx} (cage : x.cage = k)
    {f : Cage → Cage} (journal : (f (s.cage k)).journal = (s.cage k).journal) {a n i : Nat}
    (first : (s.cage k).journal.firstFrom a n i) (clean : s.clean i) :
    bothBecome k (f (s.cage k)) ch
      (s.channels[ch].begun ({ x with stage := .replay, pass := .write, segIndex := n, recIndex := 0,
                                      retriesUsed := 0 }.working (.write (s.recordIn i)))) s
      ((s.modCage k f).startSegment ch x a) := by
  subst cage
  have first' : (((s.modCage x.cage f).cage x.cage).journal).firstFrom a n i := by
    rw [State.cage_modCage_same, journal]
    exact first
  rw [State.startSegment_clean (s.modCage x.cage f) ch x a n i first' clean]
  exact bothBecome_mod rfl rfl

theorem Buffers.fetched_current {b : Buffers} {l : Cursor} (current : b.slot = .pending l true) (bytes : List Byte)
    (limit : Nat) :
    b.fetched bytes limit = { b with slot := .ready l bytes, discard := some { elapsed := 0, limit := limit } } := by
  simp only [Buffers.fetched, current]

theorem Buffers.fetched_newer {b : Buffers} {l : Cursor} (newer : b.slot = .pending l false) (bytes : List Byte)
    (limit : Nat) : b.fetched bytes limit = b := by
  simp only [Buffers.fetched, newer]

theorem Buffers.fetchRefused_current {b : Buffers} {l : Cursor} (current : b.slot = .pending l true) :
    b.fetchRefused = { b with slot := .free } := by
  simp only [Buffers.fetchRefused, current]

/-- A cage at the end of a fetch that is TAKEN (R126, R127). -/
def Cage.fetched (m : ModCursor) (bytes : List Byte) (limit : Nat) (c : Cage) : Cage :=
  { c.withModc m with buffers := c.buffers.fetched bytes limit }

/-- A cage at the end of a fetch that is REFUSED (R126). -/
def Cage.fetchRefused (m : ModCursor) (c : Cage) : Cage :=
  { c.withModc m with
    buffers := c.buffers.fetchRefused
    seq := { c.seq with counters := c.seq.counters.readDiscard } }

theorem State.fetched_eq (s : State) (k : CageId) (m : ModCursor) (bytes : List Byte) (limit : Nat) :
    ((s.withModc k m).modBuffers k fun b => b.fetched bytes limit) = s.modCage k (Cage.fetched m bytes limit) :=
  State.modCage_modCage s k _ _

theorem State.fetchRefused_eq (s : State) (k : CageId) (m : ModCursor) :
    ((s.withModc k m).modBuffers k Buffers.fetchRefused).count k Counters.readDiscard =
      s.modCage k (Cage.fetchRefused m) := by
  unfold State.withModc State.modBuffers State.count State.modSeq
  rw [State.modCage_modCage, State.modCage_modCage]
  rfl

/-- DISCARD_TIMER_EXPIRY of a READY slot (R93). -/
theorem exec_discardTimerExpiry_ready {s : State} {k : CageId} {l : Cursor} {data : List Byte} {d : Discard}
    (ready : (s.cage k).buffers.slot = .ready l data) (runs : (s.cage k).buffers.discard = some d) :
    exec (.discardTimerExpiry k) s = .next (s.modCage k fun c => { c with
      buffers := { c.buffers with slot := .free, discard := none }
      seq := { c.seq with counters := c.seq.counters.readDiscard } }) := by
  simp only [exec, execDiscardTimerExpiry, ready, runs]
  unfold State.modBuffers State.count State.modSeq
  rw [State.modCage_modCage]

/-- Settles O34: each end of a fetch is one change of the cage, and `State.startSegment_becomes` goes on from it. -/
theorem fetchFillsSlot : Obligations.FetchFillsSlot := by
  unfold Obligations.FetchFillsSlot
  intro k s c discarded
  refine ⟨?fetch, fun l data d ready runs => ⟨_, exec_discardTimerExpiry_ready ready runs, cageBecomes_modCage rfl⟩⟩
  intro ch x loc n i held work retry stuck first clean h goesOn
  refine ⟨?taken, fun b l pointed sheet pending => ?refused⟩
  case taken =>
    intro bs pointed got modc
    have ran := Access.run_read_taken (a := .fetch loc s.profile.fetchLen) (m := c.gate.modc)
      (Access.next_pointed _ _ pointed) bs
    have run := exec_delayedReadFetchEnd_done held (ChannelCtx.answerable_of retry stuck) work ran
    rw [State.fetched_eq] at run
    have goes := State.startSegment_becomes ch (State.channelOf_cage held)
      (f := Cage.fetched modc got h.active.readDiscard) rfl first clean
    refine ⟨_, run, fun l current => ?_, fun l newer => ?_⟩
    · rw [Cage.fetched, Buffers.fetched_current current] at goes
      exact goes
    · rw [Cage.fetched, Buffers.fetched_newer newer] at goes
      exact goes
  case refused =>
    have ran := Access.run_select_refused (Access.next_select (a := .fetch loc s.profile.fetchLen) pointed rfl sheet) b
    have run := exec_delayedReadFetchEnd_refused held (ChannelCtx.answerable_of retry stuck) work ran
    rw [State.fetchRefused_eq] at run
    have goes := State.startSegment_becomes ch (State.channelOf_cage held)
      (f := Cage.fetchRefused { c.gate.modc with pointer := some 125 }) rfl first clean
    rw [Cage.fetchRefused, Buffers.fetchRefused_current pending] at goes
    exact ⟨_, run, goes⟩

end Sys2Proof.Machine
end

section
/-! SUPPORT. The end of a deferred write's application (R27, R129, R168), and the proof of O35. -/

namespace Sys2Proof.Machine

/-- A cage as an entry leaves the head of its queue, the module cursor accounted (R10, R129). -/
def Cage.entryLeft (m : ModCursor) (c : Cage) : Cage :=
  { c.withModc m with buffers := { c.buffers with queue := c.buffers.queue.drop 1 } }

/-- An applied entry leaves the queue, is captured whole, and the drain goes on (R27, R129). -/
theorem State.entryApplied_withModc (s : State) (ch : Fin 4) (x : ChannelCtx) (m : ModCursor) (e : DeferEntry) :
    (s.withModc x.cage m).entryApplied ch x e =
      ((s.modCage x.cage (Cage.entryLeft m)).capture x.cage e.sheet e.offset e.data).drain ch x :=
  congrArg (fun u : State => (u.capture x.cage e.sheet e.offset e.data).drain ch x) (State.modCage_modCage s x.cage _ _)

/-- The drain goes on with a COMPLETE head (R129). -/
theorem State.drain_complete {s : State} (ch : Fin 4) {x : ChannelCtx} {e : DeferEntry} {rest : List DeferEntry}
    (queue : (s.cage x.cage).buffers.queue = e :: rest) (complete : e.filling = false) :
    s.drain ch x = s.modChannel ch fun h => h.begun ({ x with stage := .drain }.working (.apply e)) := by
  simp only [State.drain, queue, complete, Bool.false_eq_true, if_false]
  exact State.modChannel_modChannel s ch _ _

/-- Where the sheet is held, the end of a deferred write's transaction ends its application, the bytes taken accounted
(R10, R129). -/
theorem DeferEntry.run_ended (e : DeferEntry) {m : ModCursor} (there : m.sheet = some e.sheet) (pointed : Bool)
    {answer : Response} {took : List Byte}
    (answered : (∃ bs : List Byte, answer = .taken bs) ∧ took = e.data ∨
      ∃ n : Nat, answer = .refused n ∧ took = e.data.take (min n (e.data.length - 1))) :
    ∃ ended : AccessEnd,
      e.access.run m pointed false [answer] =
        { modc := m.wrote e.offset took, ended := ended, rest := [], progress := false } ∧
      ((∃ bytes, ended = .done bytes) ∨ ∃ t n, ended = .refused t n) := by
  have next : e.access.next m pointed = .write e.offset e.data :=
    Access.next_there (a := e.access) (fun _ wanted => there.trans wanted) pointed
  obtain ⟨⟨bs, rfl⟩, rfl⟩ | ⟨n, rfl, rfl⟩ := answered
  · exact ⟨_, Access.run_write_taken next bs, .inl ⟨_, rfl⟩⟩
  · exact ⟨_, Access.run_write_refused next n, .inr ⟨_, _, rfl⟩⟩

/-- Settles O35: the entry leaves by `State.entryApplied_withModc`, and the capture leaves the queue, the gate and the
channels to the drain. -/
theorem deferredWriteLeavesCaptured : Obligations.DeferredWriteLeavesCaptured := by
  unfold Obligations.DeferredWriteLeavesCaptured
  intro k ch x e answer s c held work retry stuck there took answered
  obtain rfl := State.channelOf_cage held
  let m := c.gate.modc.wrote e.offset took
  let u := s.modCage x.cage (Cage.entryLeft m)
  let w := u.capture x.cage e.sheet e.offset e.data
  obtain ⟨ended, ran, isOver⟩ := e.run_ended there x.pointed answered
  have run := exec_deferredWriteApplied_ended held (ChannelCtx.answerable_of retry stuck) work ran isOver
  rw [State.entryApplied_withModc] at run
  have left : u.cage x.cage = c.entryLeft m := State.cage_modCage_same s x.cage _
  obtain ⟨journal, captured⟩ := (CaptureFrame.capture u x.cage e.sheet e.offset e.data).1
  have buffers : (w.cage x.cage).buffers = { c.buffers with queue := c.buffers.queue.drop 1 } := by
    rw [captured, left]
    rfl
  have gate : (w.cage x.cage).gate = (c.withModc m).gate := by
    rw [captured, left]
    rfl
  refine ⟨u, w.drain ch x, run, cageBecomes_modCage rfl, rfl, fun emptied => ?closes, fun e' rest queue complete => ?next⟩
  case closes =>
    rw [State.drain_empty w ch x (by rw [buffers]; exact emptied)]
    refine bothBecome_mod ?_ ?_
    · rw [buffers, emptied]
    · rw [gate]
      rfl
  case next =>
    rw [State.drain_complete ch (by rw [buffers]; exact queue) complete]
    exact channelBecomes_modChannel rfl

end Sys2Proof.Machine
end

section
/-! SUPPORT. The end of a channel's cursor return and of the restore (R130–R134, R137, R173), and the proof of O28. -/

namespace Sys2Proof.Machine

/-! ## The comparison -/

/-- The cursor return of a channel from the controller cursor as it stands (R16, R130, R134). -/
theorem State.startChanReturn_eq (s : State) (ch : Fin 4) (x : ChannelCtx) :
    s.startChanReturn ch x = s.modChannel ch fun h => h.begun
      ({ x with stage := if x.path = ChanPath.failed then ChanStage.ending else ChanStage.ret }.working
        (.ret (s.cage x.cage).gate.ctrl)) := by
  unfold State.startChanReturn State.setCtx State.startDelay
  rw [State.modChannel_modChannel]
  cases path : x.path <;> rfl

theorem State.compareReturn_waits {s : State} (ch : Fin 4) {x : ChannelCtx} (goal : Cursor)
    (moves : (s.cage x.cage).gate.movesCursor = true) :
    s.compareReturn ch x goal true = s.modChannel ch fun h => { h with
      ctx := some { x with work := .awaitCompare goal true } } := if_pos moves

theorem State.compareReturn_moved {s : State} (ch : Fin 4) {x : ChannelCtx} {goal : Cursor}
    (rests : (s.cage x.cage).gate.movesCursor = false) (moved : (s.cage x.cage).gate.ctrl ≠ goal) :
    s.compareReturn ch x goal true = s.startChanReturn ch x := by
  rw [State.compareReturn, rests]
  exact if_neg moved

theorem State.compareReturn_ends {s : State} (ch : Fin 4) {x : ChannelCtx} {goal : Cursor}
    (rests : (s.cage x.cage).gate.movesCursor = false) (stands : (s.cage x.cage).gate.ctrl = goal) :
    s.compareReturn ch x goal true = s.finishRestore ch x := by
  rw [State.compareReturn, rests]
  exact if_pos stands

/-! ## The hand-back -/

/-- The state a restore leads to, by the way it ends (R131, R134, R137). -/
def ChanPath.target : ChanPath → ReturnTarget
  | .completion => .live
  | .failed => .faulted
  | .forgotten => .live

/-- The counters at the end of a restore (R131, R134). -/
def ChanPath.counted (p : ChanPath) (n : Counters) : Counters :=
  match p with
  | .completion => { n with restoresCompleted := n.restoresCompleted + 1 }
  | .failed => { n with restoreFailures := n.restoreFailures + 1 }
  | .forgotten => n

/-- A cage that a restore hands back: as after a sequencer's cursor return toward the same state, the end counted and the
buffers empty and OPEN (R131, R134, R137, R163). -/
def Cage.handedBack (p : ChanPath) (c : Cage) : Cage :=
  let d := c.returned p.target
  { d with buffers := Buffers.fresh, seq := { d.seq with counters := p.counted c.seq.counters } }

/-- A cage handed back in LIVE, its record as R45 and R47 lay down (R131, R137). -/
theorem Cage.handedBack_live {p : ChanPath} (c : Cage) (live : p = .completion ∨ p = .forgotten) :
    c.handedBack p = { c with
      timer := { c.timer with use := .idle }
      buffers := Buffers.fresh
      journal := { c.journal with
        incomplete := false
        identity := if c.seq.outcome = .same ∧ c.journal.identity.isSome then c.journal.identity
          else c.seq.lastIdentity }
      seq := { c.seq with state := .live, adoptPending := false, decision := false, ppres := true, pint := c.mint,
                          counters := p.counted c.seq.counters, attempt := none, due := .none, ret := none,
                          started := false } } := by
  have target : p.target = .live := by rcases live with rfl | rfl <;> rfl
  rw [Cage.handedBack, target, Cage.returned, ReturnTarget.journal, liveIdentity_eq]
  rfl

/-- What the decoder finds in the slot at an entry (R179). -/
theorem State.takeSlot_none {s : State} {k : CageId} (free : (s.cage k).slot = none) : s.takeSlot k = s := by
  simp only [State.takeSlot, free]

theorem State.takeSlot_some {s : State} {k : CageId} {d : Directive} (waits : (s.cage k).slot = some d) :
    s.takeSlot k = (s.setSlot k none).arrive k d := by
  simp only [State.takeSlot, waits]

/-- A released channel (R109). -/
def Channel.released (h : Channel) : Channel := { h with ctx := none, delayRunning := false, delay := 0 }

/-- The notices after the end of a restore (R132, R134, R137). -/
def State.endNotice (s : State) (x : ChannelCtx) : NoticePort :=
  match x.path with
  | .completion => s.notice.submit (s.liveFrame x.cage true x.totalRetries x.replayed)
  | .failed => s.notice
  | .forgotten => s.notice.submit (s.liveFrame x.cage false x.totalRetries x.replayed)

/-- The part at the end of a restore, before a directive that waited acts. -/
def State.handedBack (s : State) (ch : Fin 4) (x : ChannelCtx) : State :=
  (({ s with notice := s.endNotice x } : State).modCage x.cage (Cage.handedBack x.path)).modChannel ch Channel.released

/-- The failure path's end hands the cage back in FAULTED (R134). -/
theorem State.finishFailure_eq (s : State) (ch : Fin 4) (k : CageId) :
    s.finishFailure ch k = ((s.modCage k (Cage.handedBack .failed)).modChannel ch Channel.released).takeSlot k := by
  simp only [State.finishFailure, State.enter_idleTimer_relays _ k (st := .faulted) rfl]
  unfold State.count State.modSeq State.releaseChannel State.clearBuffers State.modBuffers
  simp only [State.modChannel_modCage, State.modCage_modCage]
  rfl

/-- The entry into LIVE with the channel released (R131, R137). -/
theorem State.toLive_handedBack (s : State) (ch : Fin 4) (k : CageId) :
    (((s.releaseChannel ch).clearBuffers k).idleTimer k).toLive k =
      (s.modCage k (Cage.handedBack .forgotten)).modChannel ch Channel.released := by
  rw [State.toLive, State.enter_idleTimer_relays _ k (st := .live) rfl]
  unfold State.releaseChannel State.clearBuffers State.modBuffers
  simp only [State.modChannel_modCage, State.modCage_modCage]
  rfl

/-- The LIVE notice, its times in steps of 10 ms (R204). -/
theorem State.liveFrame_eq (s : State) (k : CageId) (restored : Bool) (retries replayed : Nat) :
    let times := (s.cage k).seq.bootTime / 10 % 4096 * 4096 + (s.cage k).seq.powerTime / 10 % 4096
    s.liveFrame k restored retries replayed = frameOf .live (cageByte k)
      (BitVec.ofNat 8 ((if restored then 128 else 0) + retries % 128)) (BitVec.ofNat 8 replayed)
      (BitVec.ofNat 8 (times / 65536)) (BitVec.ofNat 8 (times / 256)) (BitVec.ofNat 8 times) := rfl

/-- The LIVE notice shows times that the hand-back leaves alone (R204). -/
theorem State.liveFrame_handedBack (s : State) (ch : Fin 4) (k : CageId) (p : ChanPath) (restored : Bool)
    (retries replayed : Nat) :
    ((s.modCage k (Cage.handedBack p)).modChannel ch Channel.released).liveFrame k restored retries replayed =
      s.liveFrame k restored retries replayed := by
  simp only [State.liveFrame, State.modChannel_cage, State.cage_modCage_same]
  rfl

/-- Everything the end of a restore does: the cage is handed back with its notice, then a directive that waited acts (R131,
R132, R134, R137, R179). -/
theorem State.finishRestore_eq (s : State) (ch : Fin 4) (x : ChannelCtx) :
    s.finishRestore ch x = (s.handedBack ch x).takeSlot x.cage := by
  unfold State.handedBack State.endNotice
  cases path : x.path with
  | failed =>
    simp only [State.finishRestore, path]
    exact s.finishFailure_eq ch x.cage
  | completion =>
    have counted : (s.count x.cage fun n => { n with restoresCompleted := n.restoresCompleted + 1 }).modCage x.cage
        (Cage.handedBack .forgotten) = s.modCage x.cage (Cage.handedBack .completion) := State.modCage_modCage s _ _ _
    simp only [State.finishRestore, path, State.finishCompletion, State.toLive_handedBack, counted,
      State.liveFrame_handedBack]
    rfl
  | forgotten =>
    simp only [State.finishRestore, path, State.finishForget, State.toLive_handedBack, State.liveFrame_handedBack]
    rfl

/-- The end of a restore after a change of its cage is one change of the cage, one of the channel, and the notice. -/
theorem State.handedBack_modCage (s : State) (ch : Fin 4) (x : ChannelCtx) (f : Cage → Cage) :
    (s.modCage x.cage f).handedBack ch x =
      (({ s with notice := (s.modCage x.cage f).endNotice x } : State).modCage x.cage
        fun c => (f c).handedBack x.path).modChannel ch Channel.released :=
  congrArg (State.modChannel · ch Channel.released)
    (State.modCage_modCage { s with notice := (s.modCage x.cage f).endNotice x } x.cage f (Cage.handedBack x.path))

/-! ## The command -/

/-- Settles O28: the return's end is the comparison, by its three cases; where the restore ends, its three ways are
`State.finishRestore_eq`. -/
theorem channelReturnEndsRestore : Obligations.ChannelReturnEndsRestore := by
  unfold Obligations.ChannelReturnEndsRestore
  intro k ch x goal bs s c h noReturn held work retry stuck there gate
  obtain rfl := State.channelOf_cage held
  let m : ModCursor := { c.gate.modc with pointer := some goal.pointer }
  let s1 := s.withModc x.cage m
  have cage : s1.cage x.cage = c.withModc m := State.withModc_cage s x.cage m
  have moves : (s1.cage x.cage).gate.movesCursor = c.gate.movesCursor := by
    rw [cage]
    rfl
  have ctrl : (s1.cage x.cage).gate.ctrl = c.gate.ctrl := by
    rw [cage]
    rfl
  refine ⟨_, exec_cursorReturnTransactionEnd_channel held (ChannelCtx.answerable_of retry stuck) noReturn work
    (Access.run_return_taken there x.pointed bs), fun holds => ?waits, fun rests moved => ?again, fun rests stands => ?ends⟩
  case waits =>
    rw [State.compareReturn_waits ch goal (moves.trans holds)]
    exact bothBecome_mod rfl rfl
  case again =>
    rw [State.compareReturn_moved ch (moves.trans rests) (ctrl ▸ moved), State.startChanReturn_eq]
    refine bothBecome_mod rfl ?_
    rw [ctrl]
    rfl
  case ends =>
    intro n times live journal back free
    rw [State.compareReturn_ends ch (moves.trans rests) (ctrl.trans stands), State.finishRestore_eq]
    let u := s1.handedBack ch x
    have ended : bothBecome x.cage ((c.withModc m).handedBack x.path) ch h.released { s with notice := s1.endNotice x } u := by
      rw [show u = _ from State.handedBack_modCage s ch x (Cage.withModc m)]
      exact bothBecome_mod rfl rfl
    have slot : (u.cage x.cage).slot = c.slot := by
      rw [ended.1]
      rfl
    refine ⟨u, ?waiting, fun completion => ?completed, fun forgotten => ?forgot, fun failed => ?fails⟩
    case waiting =>
      cases waiting : c.slot with
      | none => exact State.takeSlot_none (slot.trans waiting)
      | some d => exact State.takeSlot_some (slot.trans waiting)
    case completed =>
      have notice : s1.endNotice x = s.notice.submit (live 128) := by
        simp only [State.endNotice, completion]
        rw [State.liveFrame_eq, cage]
        rfl
      rw [notice, completion, Cage.handedBack_live _ (.inl rfl)] at ended
      exact ended
    case forgot =>
      have notice : s1.endNotice x = s.notice.submit (live 0) := by
        simp only [State.endNotice, forgotten]
        rw [State.liveFrame_eq, cage]
        rfl
      rw [notice, forgotten, Cage.handedBack_live _ (.inr rfl)] at ended
      exact ended
    case fails =>
      rw [State.endNotice, failed] at ended
      exact ended

end Sys2Proof.Machine
end

section
/-! SUPPORT. The check of CDA at a channel (R92, R123, R134, R158), and the proof of O46. -/

namespace Sys2Proof.Machine

/-! ## The commands, while the gate itself has no check of CDA -/

section
variable {s : State} {k : CageId} {ch : Fin 4} {x : ChannelCtx} (held : s.channelOf k = some (ch, x))
include held

theorem exec_cdaReleased_channel (unchecked : (s.cage k).gate.stallUse ≠ .stuck) (waits : x.stuck = .waiting) :
    exec (.cdaReleased k) s = .next (s.chanStart ch x) := by
  simp [exec, execCdaReleased, unchecked, held, waits]

theorem exec_stuckDetectionExpiry_channel (unchecked : (s.cage k).gate.stallUse ≠ .stuck) (waits : x.stuck = .waiting) :
    exec (.stuckDetectionExpiry k) s = .next (s.chanClear ch x) := by
  simp [exec, execStuckDetectionExpiry, unchecked, held, waits]

theorem exec_busClearEnd_channel (uncleared : (s.cage k).gate.clearing = false) (clears : x.stuck = .clearing)
    (released : Bool) : exec (.busClearEnd k released) s =
      .next (if released then (s.count k Counters.busClear).chanStart ch x else s.chanStuck ch x) := by
  cases released <;> simp [exec, execBusClearEnd, uncleared, held, clears]

end

/-! ## The channel -/

theorem State.chanStart_eq (s : State) (ch : Fin 4) (x : ChannelCtx) :
    s.chanStart ch x = s.modChannel ch fun h => h.begun { x with stuck := .none, pointed := false } := by
  unfold State.chanStart State.setCtx State.startDelay
  rw [State.modChannel_modChannel]
  rfl

theorem State.chanClear_eq (s : State) (ch : Fin 4) (x : ChannelCtx) :
    s.chanClear ch x = s.modChannel ch fun h => { h with
      ctx := some { x with stuck := .clearing }
      delayRunning := false
      delay := max h.delay h.active.stuckDetect } := State.modChannel_modChannel s ch _ _

/-- With no deferred write queued there is nothing to leave captured (R168). -/
theorem State.dropQueue_empty {s : State} {k : CageId} (empty : (s.cage k).buffers.queue = []) : s.dropQueue k = s := by
  rw [State.dropQueue_eq, empty]
  refine State.modCage_id s k Cage.unqueued ?_
  have complete : (s.cage k).buffers.filling? = none := by
    rw [Buffers.filling?, empty]
    rfl
  rw [Cage.unqueued, complete, ← empty]
  rfl

/-- A failed bus clear ends the restore in FAULTED, the module cursor UNKNOWN (R123, R134). -/
theorem State.failStuck_frame {s : State} (ch : Fin 4) {x : ChannelCtx} (empty : (s.cage x.cage).buffers.queue = [])
    (free : (s.cage x.cage).slot = none) :
    bothBecome x.cage (((s.cage x.cage).withModc { sheet := none, pointer := none }).handedBack .failed) ch
      s.channels[ch].released s (s.failStuck ch x) := by
  let forgotten : ModCursor := { sheet := none, pointer := none }
  let f : Cage → Cage := fun c => (c.closed.withModc forgotten).handedBack .failed
  have fails : s.failStuck ch x = ((s.modCage x.cage f).modChannel ch Channel.released).takeSlot x.cage := by
    unfold State.failStuck
    dsimp only
    rw [State.dropQueue_empty (by exact empty), State.finishFailure_eq]
    unfold State.setCtx State.closeQueue State.forgetModule State.modBuffers State.modGate
    simp only [State.modChannel_modCage, State.modCage_modCage, State.modChannel_modChannel]
    rfl
  rw [fails, State.takeSlot_none]
  · exact bothBecome_mod rfl rfl
  · rw [State.modChannel_cage, State.cage_modCage_same]
    exact free

/-- Settles O46: each event is one change of the channel, and the failed clear is `State.failStuck_frame`. -/
theorem stuckBusAtChannel : Obligations.StuckBusAtChannel := by
  unfold Obligations.StuckBusAtChannel
  intro k ch x s c h held unchecked uncleared starts
  obtain rfl := State.channelOf_cage held
  refine ⟨fun waits => ⟨⟨_, exec_cdaReleased_channel held unchecked waits, ?start⟩,
    ⟨_, exec_stuckDetectionExpiry_channel held unchecked waits, ?clear⟩⟩,
    fun clears => ⟨⟨_, exec_busClearEnd_channel held uncleared clears true, ?cleared⟩,
    fun empty free => ⟨_, exec_busClearEnd_channel held uncleared clears false, ?stuck⟩⟩⟩
  case start =>
    rw [State.chanStart_eq]
    exact channelBecomes_modChannel rfl
  case clear =>
    rw [State.chanClear_eq]
    exact channelBecomes_modChannel rfl
  case cleared =>
    rw [if_pos rfl, State.chanStart_eq]
    exact bothBecome_mod rfl rfl
  case stuck =>
    exact State.failStuck_frame (s := s.logFault .busStuck (some x.cage) ch.val h.active.clearPulses) ch empty free

end Sys2Proof.Machine
end

section
/-! SUPPORT. A segment that goes back to its head or fails (R121, R134), what follows a record's write (R114, R116, R118), and
the proof of O32. -/

namespace Sys2Proof.Machine

/-! ## A record's write begun, the module cursor just accounted -/

section
variable {s : State} {k : CageId} {ch : Fin 4} {x : ChannelCtx} (cage : x.cage = k) (m : ModCursor)
include cage

/-- The next write of a record, by the read of its slot (R114, R122, R193, R194). -/
theorem State.startWrite_withModc {i : Nat}
    (record : ((s.cage k).journal.segment x.segIndex)[x.recIndex]? = some i) :
    let c := s.cage k
    let t := (s.withModc k m).startWrite ch x
    let writes := s.channels[ch].begun ({ x with stage := .replay, pass := .write }.working (.write (s.recordIn i)))
    (s.clean i → bothBecome k (c.withModc m) ch writes s t) ∧
    (s.correctable i → bothBecome k (c.withModc m) ch writes (s.corrected k c.seq.shown i) t) ∧
    (s.uncorrectable i → c.buffers.queue = [] →
      bothBecome k { c.withModc m with
          journal := { c.journal with state := .damaged }
          buffers := { c.buffers with closed := true } } ch
        (s.channels[ch].begun ({ x with stage := .ending, path := .failed }.working (.ret c.gate.ctrl)))
        (s.takeFault (s.slotFault .uncorrectable k c.seq.shown i)) t) := by
  have frames := (s.withModc k m).startWrite_frames ch x k cage i (by rw [State.withModc_cage]; exact record)
  rw [State.withModc_cage] at frames
  obtain ⟨clean, correctable, uncorrectable⟩ := frames
  exact ⟨fun h => bothBecome_of_modCage (clean h),
    fun h => bothBecome_of_modCage (s := s.corrected k _ i) (f := Cage.withModc m) (correctable h),
    fun h empty => bothBecome_of_modCage (s := s.takeFault _) (f := Cage.withModc m) (uncorrectable h empty)⟩

/-- A segment that has failed goes back to its head while retries are left (R121). -/
theorem State.segmentFailed_retries (left : x.retriesUsed < s.channels[ch].active.verifyRetries) {i : Nat}
    (head : ((s.cage k).journal.segment x.segIndex).head? = some i) (clean : s.clean i) (sheet position : Nat) :
    bothBecome k ((s.cage k).withModc m) ch
      (s.channels[ch].begun ({ x with stage := .replay, pass := .write, recIndex := 0, retriesUsed := x.retriesUsed + 1,
                                      totalRetries := x.totalRetries + 1 }.working (.write (s.recordIn i)))) s
      ((s.withModc k m).segmentFailed ch x sheet position) := by
  let y : ChannelCtx := { x with retriesUsed := x.retriesUsed + 1, totalRetries := x.totalRetries + 1, recIndex := 0,
                                 pass := .write }
  have again : (s.withModc k m).segmentFailed ch x sheet position = (s.withModc k m).startWrite ch y := if_pos left
  rw [List.head?_eq_getElem?] at head
  rw [again]
  exact (State.startWrite_withModc (x := y) cage m head).1 clean

/-- A segment that has failed with no retry left fails the restore with VERIFY (R121, R134). -/
theorem State.segmentFailed_fails (spent : s.channels[ch].active.verifyRetries ≤ x.retriesUsed)
    (empty : (s.cage k).buffers.queue = []) (sheet position : Nat) :
    bothBecome k ((s.cage k).withModc m).closed ch
      (s.channels[ch].begun ({ x with stage := .ending, path := ChanPath.failed }.working (.ret (s.cage k).gate.ctrl)))
      (s.takeFault { kind := .verify, cage := some k, state := some (s.cage k).seq.shown, uptime := s.log.uptime,
                     detail1 := BitVec.ofNat 16 sheet, detail2 := BitVec.ofNat 16 position })
      ((s.withModc k m).segmentFailed ch x sheet position) := by
  subst cage
  let u := (s.withModc x.cage m).logFault .verify (some x.cage) sheet position
  have fails : (s.withModc x.cage m).segmentFailed ch x sheet position = u.failRestore ch x :=
    if_neg (Nat.not_lt.2 spent)
  have own : u.cage x.cage = (s.cage x.cage).withModc m := State.withModc_cage s x.cage m
  have entry : (s.withModc x.cage m).faultEntry .verify (some x.cage) sheet position =
      s.faultEntry .verify (some x.cage) sheet position := by
    simp only [State.faultEntry, Option.map_some, State.withModc_cage]
    rfl
  have frame := u.failRestore_frame ch x x.cage rfl (by rw [own]; exact empty)
  rw [own] at frame
  rw [fails]
  refine bothBecome_of_modCage (f := Cage.withModc m) (t := u.failRestore ch x)
    (s := s.takeFault (s.faultEntry .verify (some x.cage) sheet position)) ?_
  rw [← entry]
  exact frame

end

/-- The sheet detail of a VERIFY fault (R198). -/
def Area.detailWord : Area → BitVec 16
  | .base => 255
  | .sheet n => BitVec.ofNat 16 n.toNat

theorem Area.detailWord_eq (a : Area) : a.detailWord = BitVec.ofNat 16 a.detail := by
  cases a <;> rfl

/-! ## What follows an answer -/

/-- The first attempt of a further transaction of an access (R92). -/
theorem State.chanMore_fresh (s : State) (ch : Fin 4) (x : ChannelCtx) (pointed : Bool) :
    s.chanMore ch x pointed true = s.modChannel ch fun h => h.begun { x with pointed := pointed } := by
  rw [State.chanMore, if_pos rfl]
  unfold State.setCtx State.startDelay
  rw [State.modChannel_modChannel]
  rfl

/-- A record TAKEN is followed by the next of its segment (R114). -/
theorem State.recordWritten_next {s : State} (ch : Fin 4) {x : ChannelCtx} {i : Nat}
    (next : ((s.cage x.cage).journal.segment x.segIndex)[x.recIndex + 1]? = some i) :
    s.recordWritten ch x = s.startWrite ch { x with recIndex := x.recIndex + 1 } :=
  if_pos (List.getElem?_eq_some_iff.1 next).1

/-- The last record TAKEN ends the write pass (R114, R118). -/
theorem State.recordWritten_last {s : State} (ch : Fin 4) {x : ChannelCtx}
    (last : ((s.cage x.cage).journal.segment x.segIndex).length = x.recIndex + 1) :
    s.recordWritten ch x = s.endWritePass ch x :=
  if_neg (by rw [last]; exact Nat.lt_irrefl _)

/-- A closed segment waits for the post-delay of its marker's rule (R118). -/
theorem State.postDelay_marker {s : State} {j : CageRecord} {i l : Nat} {u : Rule} (closed : i < j.closed.length)
    (marker : (j.segment i).getLast? = some l) (rule : s.profile.rules[(s.recordIn l).rule]? = some u) :
    s.postDelay j i = u.postDelay * 10 := by
  simp only [State.postDelay, if_pos closed, marker, rule]

theorem State.endWritePass_waits {s : State} (ch : Fin 4) {x : ChannelCtx} {d : Nat}
    (delay : s.postDelay (s.cage x.cage).journal x.segIndex = d) (positive : 0 < d) :
    s.endWritePass ch x = s.modChannel ch fun h =>
      h.begun { x with work := .postDelay d, retry := .inHand, stuck := .none } := by
  unfold State.endWritePass
  rw [delay]
  dsimp only
  rw [if_neg (Nat.ne_of_gt positive)]
  unfold State.setCtx State.startDelay
  rw [State.modChannel_modChannel]
  rfl

/-- Settles O32, by the answer: the sheet select, BUSY, the record TAKEN with another after it or as its segment's last, and
a byte refused. -/
theorem recordWriteGoesOn : Obligations.RecordWriteGoesOn := by
  unfold Obligations.RecordWriteGoesOn
  intro k ch x r s c held work retry stuck h seg at' moved
  have waits := ChannelCtx.answerable_of retry stuck
  obtain rfl := State.channelOf_cage held
  refine ⟨fun n bs area other begins => ?select, ?busy, fun there => ⟨fun bs i next => ?taken,
    fun bs l u last closed marker rule positive => ?marker, fun n => ?refused⟩⟩
  case select =>
    refine ⟨_, exec_recordWriteEnd_more held waits work
      (Access.run_select_taken (Record.next_select begins area other) bs) rfl, ?_⟩
    rw [State.chanMore_fresh]
    exact bothBecome_mod rfl rfl
  case busy =>
    refine ⟨_, exec_recordWriteEnd_busy held waits work (Access.run_busy _ _ _ _ []) rfl, ?_⟩
    rw [State.withModc_same]
    exact channelBecomes_modChannel rfl
  case taken =>
    have run := exec_recordWriteEnd_done held waits work
      (Access.run_write_taken (Record.next_write there x.pointed) bs) rfl
    rw [State.recordWritten_next ch (by rw [State.withModc_cage]; exact next)] at run
    obtain ⟨clean, correctable, uncorrectable⟩ := State.startWrite_withModc (s := s) (ch := ch)
      (x := { x with recIndex := x.recIndex + 1 }) rfl (c.gate.modc.wrote at' r.data) next
    exact ⟨fun h => ⟨_, run, clean h⟩, fun h => ⟨_, run, correctable h⟩,
      fun h empty => ⟨_, run, uncorrectable h empty⟩⟩
  case marker =>
    let s1 := s.withModc x.cage (c.gate.modc.wrote at' r.data)
    have own : s1.cage x.cage = c.withModc (c.gate.modc.wrote at' r.data) := State.withModc_cage s x.cage _
    have delay : s1.postDelay (s1.cage x.cage).journal x.segIndex = u.postDelay * 10 := by
      rw [own]
      exact State.postDelay_marker closed marker rule
    have run := exec_recordWriteEnd_done held waits work
      (Access.run_write_taken (Record.next_write there x.pointed) bs) rfl
    rw [State.recordWritten_last ch (by rw [State.withModc_cage]; exact last),
      State.endWritePass_waits ch delay (by omega)] at run
    exact ⟨_, run, bothBecome_mod rfl rfl⟩
  case refused =>
    intro took
    have run := exec_recordWriteEnd_refused held waits work
      (Access.run_write_refused (Record.next_write there x.pointed) n) rfl
    refine ⟨fun i left head clean => ⟨_, run, State.segmentFailed_retries rfl _ left head clean _ _⟩,
      fun spent empty => ⟨_, run, ?_⟩⟩
    have fails := State.segmentFailed_fails rfl (c.gate.modc.wrote at' (r.data.take took)) spent empty r.area.detail
      (r.start + took)
    rw [← Area.detailWord_eq] at fails
    exact fails

end Sys2Proof.Machine
end

section
/-! SUPPORT. A directive taken from the slot at a boundary or the completion point (R124, R128, R136, R137), and the boundary
itself (R124–R126). -/

namespace Sys2Proof.Machine

/-! ## The ends of the replay, from a state in which the cage and its channel have just changed -/

/-- The part as cage `k` has changed by `f` and channel `ch` has this context. -/
def State.changed (s : State) (k : CageId) (f : Cage → Cage) (ch : Fin 4) (y : ChannelCtx) : State :=
  (s.modCage k f).modChannel ch fun h => { h with ctx := some y }

section
variable (s : State) (k : CageId) (f : Cage → Cage) (ch : Fin 4) (y : ChannelCtx)

theorem State.changed_cage : (s.changed k f ch y).cage k = f (s.cage k) := State.cage_modCage_same s k f

theorem State.changed_channel : (s.changed k f ch y).channels[ch] = { s.channels[ch] with ctx := some y } :=
  State.modChannel_same (s.modCage k f) ch _

theorem State.changed_setSlot (d : Option Directive) :
    (s.changed k f ch y).setSlot k d = s.changed k (fun c => (f c).withSlot d) ch y :=
  congrArg (fun u : State => u.modChannel ch fun h => { h with ctx := some y })
    (State.modCage_modCage s k f (Cage.withSlot d))

end

theorem State.adoptSeq_gate (s : State) (k : CageId) : ((s.adoptSeq k).cage k).gate = (s.cage k).gate := by
  obtain ⟨t, due, adopted⟩ := s.adoptSeq_cage k
  rw [adopted]

section
variable {s : State} {k : CageId} (ch : Fin 4) {x : ChannelCtx} (cage : x.cage = k) {f : Cage → Cage} (y : ChannelCtx)
include cage

/-- RESEAT after a change of the cage that leaves its flags and active set alone (R90, R136). -/
theorem State.reseatRestore_becomes (seqDue : ∀ c, (f c).seq.adoptionDue = c.seq.adoptionDue)
    (gateDue : ∀ c, (f c).gate.adoptionDue = c.gate.adoptionDue) (adopts : ∀ t c, f (c.adopted t) = (f c).adopted t)
    (empty : (f (s.cage k)).buffers.queue = []) :
    bothBecome k (f ((s.adoptSeq k).cage k)).reseated ch
      { s.channels[ch] with ctx := none, delayRunning := false, delay := 0 } (s.adoptSeq k)
      ((s.changed k f ch y).reseatRestore ch x) := by
  have adopted : (s.changed k f ch y).adoptSeq k = (s.adoptSeq k).changed k f ch y := by
    rw [State.changed, State.adoptSeq_modChannel, State.adoptSeq_modCage s k f seqDue gateDue adopts]
    · rfl
    · exact fun _ => rfl
  have frame := (s.changed k f ch y).reseatRestore_frame ch x k cage (by
    rw [State.changed_cage]
    exact empty)
  rw [adopted, State.changed_cage, State.changed_channel] at frame
  exact bothBecome_of_mod frame

/-- FORGET after a change of the cage (R137). -/
theorem State.forgetRestore_becomes (empty : (f (s.cage k)).buffers.queue = []) :
    let c := f (s.cage k)
    bothBecome k ({ c with journal := c.journal.emptied } : Cage).closed ch
      (s.channels[ch].begun ({ x with stage := .ret, path := .forgotten }.working (.ret c.gate.ctrl)))
      { s with store := { s.store with slots := c.journal.slots.foldl SlotMem.free s.store.slots } }
      ((s.changed k f ch y).forgetRestore ch x) := by
  have frame := (s.changed k f ch y).forgetRestore_frame ch x k cage (by
    rw [State.changed_cage]
    exact empty)
  rw [State.changed_cage, State.changed_channel] at frame
  exact bothBecome_of_mod (f := f) (g := fun h => { h with ctx := some y }) (s := { s with
    store := { s.store with slots := (f (s.cage k)).journal.slots.foldl SlotMem.free s.store.slots } }) frame

/-- With no directive and no deferred write the completion point begins the cursor return (R128–R130). -/
theorem State.completionPoint_returns (free : (f (s.cage k)).slot = none) (empty : (f (s.cage k)).buffers.queue = []) :
    bothBecome k (f (s.cage k)).closed ch
      (s.channels[ch].begun ({ x with stage := if x.path = ChanPath.failed then ChanStage.ending else ChanStage.ret }.working
        (.ret (f (s.cage k)).gate.ctrl))) s ((s.changed k f ch y).completionPoint ch x) := by
  subst cage
  have own := State.changed_cage s x.cage f ch y
  rw [State.completionPoint, State.boundaryDirective_none _ ch x (by rw [own]; exact free)]
  have drains := State.drain_empty (s.changed x.cage f ch y) ch x (by rw [own]; exact empty)
  refine bothBecome_of_mod (drains ▸ bothBecome_mod ?_ ?_)
  · rw [own]
    rfl
  · rw [own, State.changed_channel]
    rfl

end

/-! ## A directive at the completion point -/

section
variable {s : State} (ch : Fin 4) {x : ChannelCtx}

theorem State.completionPoint_reseat {arg : Option Byte}
    (reseat : (s.cage x.cage).slot = some { code := 0x01, arg := arg }) :
    s.completionPoint ch x = (s.setSlot x.cage none).reseatRestore ch x := by
  rw [State.completionPoint, State.boundaryDirective_reseat s ch x arg reseat]
  rfl

theorem State.completionPoint_forget {arg : Option Byte}
    (forget : (s.cage x.cage).slot = some { code := 0x03, arg := arg }) :
    s.completionPoint ch x = (s.setSlot x.cage none).forgetRestore ch x := by
  rw [State.completionPoint, State.boundaryDirective_forget s ch x arg forget]
  rfl

end

section
variable {s : State} {k : CageId} (ch : Fin 4) {x : ChannelCtx} (cage : x.cage = k) {f : Cage → Cage} (y : ChannelCtx)
include cage

/-- RESEAT at the completion point after a change of the cage that leaves its flags and active set alone (R128, R136). -/
theorem State.completionPoint_reseats {arg : Option Byte} (reseat : (f (s.cage k)).slot = some { code := 0x01, arg := arg })
    (seqDue : ∀ c, (f c).seq.adoptionDue = c.seq.adoptionDue)
    (gateDue : ∀ c, (f c).gate.adoptionDue = c.gate.adoptionDue) (adopts : ∀ t c, f (c.adopted t) = (f c).adopted t)
    (empty : (f (s.cage k)).buffers.queue = []) :
    bothBecome k ((f ((s.adoptSeq k).cage k)).withSlot none).reseated ch
      { s.channels[ch] with ctx := none, delayRunning := false, delay := 0 } (s.adoptSeq k)
      ((s.changed k f ch y).completionPoint ch x) := by
  subst cage
  rw [State.completionPoint_reseat ch (by rw [State.changed_cage]; exact reseat), State.changed_setSlot]
  exact State.reseatRestore_becomes (f := fun c => (f c).withSlot none) ch rfl y seqDue gateDue
    (fun t c => congrArg (Cage.withSlot none) (adopts t c)) empty

/-- FORGET at the completion point after a change of the cage (R128, R137). -/
theorem State.completionPoint_forgets {arg : Option Byte} (forget : (f (s.cage k)).slot = some { code := 0x03, arg := arg })
    (empty : (f (s.cage k)).buffers.queue = []) :
    let c := f (s.cage k)
    bothBecome k ({ c with journal := c.journal.emptied, slot := none } : Cage).closed ch
      (s.channels[ch].begun ({ x with stage := .ret, path := .forgotten }.working (.ret c.gate.ctrl)))
      { s with store := { s.store with slots := c.journal.slots.foldl SlotMem.free s.store.slots } }
      ((s.changed k f ch y).completionPoint ch x) := by
  subst cage
  rw [State.completionPoint_forget ch (by rw [State.changed_cage]; exact forget), State.changed_setSlot]
  exact State.forgetRestore_becomes (f := fun c => (f c).withSlot none) ch rfl y empty

end

/-! ## The boundary -/

/-- A context at a boundary (R124). -/
def ChannelCtx.bounded (x : ChannelCtx) : ChannelCtx := { x with stage := .boundary, work := .idle }

section
variable {s : State} (ch : Fin 4) {x : ChannelCtx}

/-- A directive that ends the restore ends the boundary (R124 step 1). -/
theorem State.boundary_ended {t : State}
    (taken : (s.setCtx ch x.bounded).boundaryDirective ch x.bounded = (t, true)) : s.boundary ch x = t := by
  unfold ChannelCtx.bounded at taken
  rw [State.boundary, taken]
  rfl

theorem State.boundary_reseat {arg : Option Byte}
    (reseat : (s.cage x.cage).slot = some { code := 0x01, arg := arg }) :
    s.boundary ch x = ((s.setCtx ch x.bounded).setSlot x.cage none).reseatRestore ch x.bounded :=
  State.boundary_ended ch (State.boundaryDirective_reseat (s.setCtx ch x.bounded) ch x.bounded arg reseat)

theorem State.boundary_forget {arg : Option Byte}
    (forget : (s.cage x.cage).slot = some { code := 0x03, arg := arg }) :
    s.boundary ch x = ((s.setCtx ch x.bounded).setSlot x.cage none).forgetRestore ch x.bounded :=
  State.boundary_ended ch (State.boundaryDirective_forget (s.setCtx ch x.bounded) ch x.bounded arg forget)

/-- With no directive a PENDING read slot's fetch begins (R126, R127). -/
theorem State.boundary_fetches {loc : Cursor} {f : Bool} (free : (s.cage x.cage).slot = none)
    (pending : (s.cage x.cage).buffers.slot = .pending loc f) :
    s.boundary ch x = (s.modCage x.cage fun c => { c with
        buffers := { c.buffers with slot := .pending loc true } }).modChannel ch fun h =>
      h.begun ({ x with stage := .boundary }.working (.fetch loc)) := by
  have looked := State.boundaryDirective_none (s.setCtx ch x.bounded) ch x.bounded free
  have waits : ((s.setCtx ch x.bounded).cage x.cage).buffers.slot = .pending loc f := pending
  unfold ChannelCtx.bounded at looked waits
  simp only [State.boundary, looked, waits, Bool.false_eq_true, if_false]
  unfold State.modBuffers State.setCtx State.startDelay
  rw [State.modChannel_modCage, State.modChannel_modChannel, State.modChannel_modChannel]
  rfl

/-- With no directive and no read waiting the next segment begins (R113, R124). -/
theorem State.boundary_goesOn (free : (s.cage x.cage).slot = none)
    (noRead : ∀ (loc : Cursor) (f : Bool), (s.cage x.cage).buffers.slot ≠ .pending loc f) :
    s.boundary ch x = (s.setCtx ch x.bounded).startSegment ch x.bounded (x.segIndex + 1) := by
  have looked := State.boundaryDirective_none (s.setCtx ch x.bounded) ch x.bounded free
  have noWait : ∀ (loc : Cursor) (f : Bool), ((s.setCtx ch x.bounded).cage x.cage).buffers.slot ≠ .pending loc f := noRead
  unfold ChannelCtx.bounded at looked noWait
  -- The hypothesis `noWait`, which `simp` finds in the context, excludes the branch of the fetch.
  simp only [State.boundary, looked, Bool.false_eq_true, if_false]
  rfl

end

end Sys2Proof.Machine
end

section
/-! SUPPORT. The verify pass (R118–R121) and what follows a verified segment (R113, R124, R128), and the proof of O33. -/

namespace Sys2Proof.Machine

/-! ## The comparison -/

/-- Bytes read back that equal the record's go on to the next record (R119, R120). -/
theorem State.verifyCompared_equal (s : State) (ch : Fin 4) (x : ChannelCtx) (r : Record) :
    s.verifyCompared ch x r r.data = s.startVerify ch x (x.recIndex + 1) := by
  have none : ((List.range r.data.length).find? fun i => decide (r.data[i]? ≠ r.data[i]?)) = none := by simp
  rw [State.verifyCompared, none]

/-- The first byte that differs fails the segment (R120, R121). -/
theorem State.verifyCompared_differs (s : State) (ch : Fin 4) (x : ChannelCtx) {r : Record} {bytes : List Byte} {i : Nat}
    (inside : i < r.data.length) (before : ∀ j : Nat, j < i → bytes[j]? = r.data[j]?) (differs : bytes[i]? ≠ r.data[i]?) :
    s.verifyCompared ch x r bytes = s.segmentFailed ch x r.area.detail (r.start + i) := by
  have first : ((List.range r.data.length).find? fun i => decide (bytes[i]? ≠ r.data[i]?)) = some i := by
    rw [List.find?_range_eq_some]
    exact ⟨decide_eq_true differs, List.mem_range.2 inside, fun j below => by simp [before j below]⟩
  rw [State.verifyCompared, first]

/-! ## A verified segment -/

/-- A context whose segment has verified (R113). -/
def ChannelCtx.verified (x : ChannelCtx) (records : Nat) : ChannelCtx :=
  { x with replayed := x.replayed + records, work := .idle }

/-- Where no later segment holds a record there is none to begin (R113, R124). -/
theorem CageRecord.nextSegment_last {j : CageRecord} {i : Nat}
    (last : ∀ n : Nat, i ≤ n → n < j.segments.length → j.segments[n]? = some []) : j.nextSegment i = none := by
  rw [CageRecord.nextSegment, List.find?_eq_none]
  intro n inside
  by_cases later : i ≤ n
  · simp [CageRecord.segment, last n later (List.mem_range.1 inside)]
  · simp [later]

section
variable {s : State} (ch : Fin 4) {x : ChannelCtx} {j : CageRecord} (journal : (s.cage x.cage).journal = j)
include journal

/-- A verified last segment is followed by the completion point (R113, R128). -/
theorem State.segmentVerified_last (last : j.nextSegment (x.segIndex + 1) = none) :
    let y := x.verified (j.segment x.segIndex).length
    s.segmentVerified ch x = (s.setCtx ch y).completionPoint ch y := by
  subst journal
  simp only [State.segmentVerified, last]
  rfl

/-- A verified segment with a later one is followed by a boundary (R113, R124). -/
theorem State.segmentVerified_later {n : Nat} (later : j.nextSegment (x.segIndex + 1) = some n) :
    s.segmentVerified ch x = s.boundary ch (x.verified (j.segment x.segIndex).length) := by
  subst journal
  simp only [State.segmentVerified, later]
  rfl

/-- RESEAT in the slot ends the restore at the boundary as at the completion point (R124, R128, R136). -/
theorem State.segmentVerified_reseat {arg : Option Byte}
    (reseat : (s.cage x.cage).slot = some { code := 0x01, arg := arg }) :
    ∃ y : ChannelCtx, y.cage = x.cage ∧
      s.segmentVerified ch x = ((s.setCtx ch y).setSlot x.cage none).reseatRestore ch y := by
  cases next : j.nextSegment (x.segIndex + 1) with
  | none =>
    refine ⟨x.verified (j.segment x.segIndex).length, rfl, ?_⟩
    rw [State.segmentVerified_last ch journal next]
    exact State.completionPoint_reseat ch reseat
  | some n =>
    refine ⟨(x.verified (j.segment x.segIndex).length).bounded, rfl, ?_⟩
    rw [State.segmentVerified_later ch journal next]
    exact State.boundary_reseat ch reseat

/-- FORGET in the slot likewise (R137). -/
theorem State.segmentVerified_forget {arg : Option Byte}
    (forget : (s.cage x.cage).slot = some { code := 0x03, arg := arg }) :
    ∃ st : ChanStage, let y := { x.verified (j.segment x.segIndex).length with stage := st }
      s.segmentVerified ch x = ((s.setCtx ch y).setSlot x.cage none).forgetRestore ch y := by
  cases next : j.nextSegment (x.segIndex + 1) with
  | none =>
    refine ⟨x.stage, ?_⟩
    rw [State.segmentVerified_last ch journal next]
    exact State.completionPoint_forget ch forget
  | some n =>
    refine ⟨.boundary, ?_⟩
    rw [State.segmentVerified_later ch journal next]
    exact State.boundary_forget ch forget

end

/-! ## A segment verified, the module cursor just accounted -/

section
variable {s : State} {k : CageId} {ch : Fin 4} {x : ChannelCtx} (cage : x.cage = k) (m : ModCursor)
include cage

omit cage in
theorem State.withModc_journal : ((s.withModc k m).cage k).journal = (s.cage k).journal := by
  rw [State.withModc_cage]
  rfl

/-- The last segment verified, with nothing waiting: the cursor return (R113, R128–R130). -/
theorem State.segmentVerified_returns (last : (s.cage k).journal.nextSegment (x.segIndex + 1) = none)
    (free : (s.cage k).slot = none) (empty : (s.cage k).buffers.queue = []) :
    bothBecome k ((s.cage k).withModc m).closed ch
      (s.channels[ch].begun ({ x with
        replayed := x.replayed + ((s.cage k).journal.segment x.segIndex).length
        stage := if x.path = ChanPath.failed then ChanStage.ending else ChanStage.ret }.working (.ret (s.cage k).gate.ctrl)))
      s ((s.withModc k m).segmentVerified ch x) := by
  subst cage
  rw [State.segmentVerified_last ch (State.withModc_journal m) last]
  exact State.completionPoint_returns (f := Cage.withModc m) ch
    (x := x.verified ((s.cage x.cage).journal.segment x.segIndex).length) rfl _ free empty

/-- A segment verified, with a read PENDING: the boundary's fetch (R124, R126). -/
theorem State.segmentVerified_fetches {n i : Nat} (later : (s.cage k).journal.firstFrom (x.segIndex + 1) n i)
    (free : (s.cage k).slot = none) {loc : Cursor} {f : Bool} (pending : (s.cage k).buffers.slot = .pending loc f) :
    bothBecome k { (s.cage k).withModc m with buffers := { (s.cage k).buffers with slot := .pending loc true } } ch
      (s.channels[ch].begun ({ x with
        replayed := x.replayed + ((s.cage k).journal.segment x.segIndex).length, stage := .boundary }.working (.fetch loc)))
      s ((s.withModc k m).segmentVerified ch x) := by
  subst cage
  have own := s.withModc_cage x.cage m
  let y := x.verified ((s.cage x.cage).journal.segment x.segIndex).length
  have fetches := State.boundary_fetches (s := s.withModc x.cage m) ch (x := y) ((congrArg Cage.slot own).trans free)
    ((congrArg (fun c => c.buffers.slot) own).trans pending)
  rw [State.segmentVerified_later ch (State.withModc_journal m) (CageRecord.nextSegment_firstFrom _ _ _ _ later), fetches]
  refine bothBecome_of_modCage (bothBecome_mod ?_ rfl)
  rw [State.cage_modCage_same]
  rfl

/-- A segment verified, with nothing waiting: the next segment (R113, R124). -/
theorem State.segmentVerified_goesOn {n i : Nat} (later : (s.cage k).journal.firstFrom (x.segIndex + 1) n i)
    (free : (s.cage k).slot = none) (noRead : ∀ (loc : Cursor) (f : Bool), (s.cage k).buffers.slot ≠ .pending loc f)
    (clean : s.clean i) :
    bothBecome k ((s.cage k).withModc m) ch
      (s.channels[ch].begun ({ x with
        replayed := x.replayed + ((s.cage k).journal.segment x.segIndex).length, stage := .replay, pass := .write,
        segIndex := n, recIndex := 0, retriesUsed := 0 }.working (.write (s.recordIn i))))
      s ((s.withModc k m).segmentVerified ch x) := by
  subst cage
  have own := s.withModc_cage x.cage m
  let y := x.verified ((s.cage x.cage).journal.segment x.segIndex).length
  have goesOn := State.boundary_goesOn (s := s.withModc x.cage m) ch (x := y) ((congrArg Cage.slot own).trans free)
    fun loc f => by
      rw [show (s.withModc x.cage m).cage y.cage = _ from own]
      exact noRead loc f
  have first : (((s.withModc x.cage m).cage x.cage).journal).firstFrom (x.segIndex + 1) n i := by
    rw [own]
    exact later
  have starts := State.startSegment_clean ((s.withModc x.cage m).setCtx ch y.bounded) ch y.bounded (x.segIndex + 1) n i
    first clean
  rw [State.segmentVerified_later ch (State.withModc_journal m) (CageRecord.nextSegment_firstFrom _ _ _ _ later), goesOn,
    show y.segIndex = x.segIndex from rfl, starts, State.setCtx, State.modChannel_modChannel]
  exact bothBecome_mod rfl rfl

/-- A segment verified, with RESEAT in the slot (R136). -/
theorem State.segmentVerified_reseats {arg : Option Byte} (reseat : (s.cage k).slot = some { code := 0x01, arg := arg })
    (empty : (s.cage k).buffers.queue = []) :
    bothBecome k ({ (s.adoptSeq k).cage k with gate := ((s.cage k).withModc m).gate, slot := none } : Cage).reseated ch
      { s.channels[ch] with ctx := none, delayRunning := false, delay := 0 } (s.adoptSeq k)
      ((s.withModc k m).segmentVerified ch x) := by
  subst cage
  have own := s.withModc_cage x.cage m
  obtain ⟨y, same, ends⟩ := State.segmentVerified_reseat (s := s.withModc x.cage m) ch rfl
    ((congrArg Cage.slot own).trans reseat)
  rw [ends, show ((s.withModc x.cage m).setCtx ch y).setSlot x.cage none = _ from
    State.changed_setSlot s x.cage (Cage.withModc m) ch y none]
  have reseats := State.reseatRestore_becomes (f := fun c => (c.withModc m).withSlot none) ch same y (fun _ => rfl)
    (fun _ => rfl) (fun _ _ => rfl) empty
  rw [Cage.withModc, State.adoptSeq_gate] at reseats
  exact reseats

/-- A segment verified, with FORGET in the slot (R137). -/
theorem State.segmentVerified_forgets {arg : Option Byte} (forget : (s.cage k).slot = some { code := 0x03, arg := arg })
    (empty : (s.cage k).buffers.queue = []) :
    let c := ((s.cage k).withModc m).withSlot none
    bothBecome k ({ c with journal := c.journal.emptied } : Cage).closed ch
      (s.channels[ch].begun ({ x with
        replayed := x.replayed + ((s.cage k).journal.segment x.segIndex).length, stage := .ret, path := .forgotten }.working
          (.ret (s.cage k).gate.ctrl)))
      { s with store := { s.store with slots := (s.cage k).journal.slots.foldl SlotMem.free s.store.slots } }
      ((s.withModc k m).segmentVerified ch x) := by
  subst cage
  have own := s.withModc_cage x.cage m
  obtain ⟨st, ends⟩ := State.segmentVerified_forget (s := s.withModc x.cage m) ch (State.withModc_journal m)
    ((congrArg Cage.slot own).trans forget)
  rw [ends, show ((s.withModc x.cage m).setCtx ch _).setSlot x.cage none = _ from
    State.changed_setSlot s x.cage (Cage.withModc m) ch _ none]
  exact State.forgetRestore_becomes (f := fun c => (c.withModc m).withSlot none) ch
    (x := { x.verified ((s.cage x.cage).journal.segment x.segIndex).length with stage := st }) rfl _ empty

end

/-! ## The commands -/

/-- POST_DELAY_END begins the verify pass (R118). -/
theorem exec_postDelayEnd {s : State} {k : CageId} {ch : Fin 4} {x : ChannelCtx} {d : Nat}
    (held : s.channelOf k = some (ch, x)) (work : x.work = .postDelay d) :
    exec (.postDelayEnd k) s = .next ((s.modChannel ch fun h => { h with
      delayRunning := false, delay := max h.delay d }).startVerify ch x 0) := by
  simp only [exec, execPostDelayEnd, held, work]

/-- Settles O33: the pass goes on by `State.startVerify_next`, a difference is `State.segmentFailed_retries` or
`State.segmentFailed_fails`, and a verified segment goes by the boundary or the completion point. -/
theorem verifyPassCompares : Obligations.VerifyPassCompares := by
  unfold Obligations.VerifyPassCompares
  intro k ch x s c held h seg readBack next
  obtain rfl := State.channelOf_cage held
  have reads : ∀ {i : Nat}, verifies s.profile.rules (s.recordIn i) = true ↔ readBack i := verifies_iff _ _
  have skips : ∀ {i : Nat}, ¬readBack i → verifies s.profile.rules (s.recordIn i) = false :=
    fun passed => Bool.eq_false_iff.2 fun yes => passed (reads.1 yes)
  refine ⟨fun d n i work first clean => ⟨_, exec_postDelayEnd held work, ?begins⟩, ?compares⟩
  case begins =>
    obtain ⟨lower, record, back, passed⟩ := first
    rw [State.startVerify_next (s.modChannel ch _) ch x x.cage rfl 0 n i lower record (reads.2 back)
      (fun j l low high at' => skips (passed j l low high at')) clean, State.modChannel_modChannel]
    exact channelBecomes_modChannel rfl
  case compares =>
    intro r bs work retry stuck pointed got moved becomes
    let m := c.gate.modc.step r.data.length
    let s1 := s.withModc x.cage m
    have own : s1.cage x.cage = c.withModc m := State.withModc_cage s x.cage m
    have run : exec (.verifyReadEnd x.cage [.taken bs]) s = .next (s1.verifyCompared ch x r got) :=
      exec_verifyReadEnd_done held (ChannelCtx.answerable_of retry stuck) work
        (Access.run_read_taken (Access.next_pointed _ _ pointed) bs)
    refine ⟨fun n i equal first clean => ?next, fun equal none => ?verified, fun i inside before differs => ?differs⟩
    case next =>
      obtain ⟨lower, record, back, passed⟩ := first
      rw [equal, State.verifyCompared_equal, State.startVerify_next s1 ch x x.cage rfl (x.recIndex + 1) n i lower
        (by rw [own]; exact record) (reads.2 back)
        (fun j l low high at' => skips (passed j l low high (by rw [own] at at'; exact at'))) clean] at run
      exact ⟨_, run, bothBecome_mod rfl rfl⟩
    case verified =>
      intro y last later closed
      rw [equal, State.verifyCompared_equal, State.startVerify_none s1 ch x x.cage rfl (x.recIndex + 1)
        fun j l low at' => skips (none j l low (by rw [own] at at'; exact at'))] at run
      let w : ChannelCtx := { x with pass := .verify }
      refine ⟨fun isLast free empty => ⟨_, run, ?returns⟩, fun n i isLater free =>
        ⟨fun loc f pending => ⟨_, run, ?fetches⟩, fun noRead clean => ⟨_, run, ?goesOn⟩⟩,
        fun _ empty => ⟨fun arg reseat => ⟨_, run, ?reseats⟩, fun arg forget => ⟨_, run, ?forgets⟩⟩⟩
      case returns =>
        exact State.segmentVerified_returns (x := w) rfl m (CageRecord.nextSegment_last isLast) free empty
      case fetches => exact State.segmentVerified_fetches (x := w) rfl m isLater free pending
      case goesOn => exact State.segmentVerified_goesOn (x := w) rfl m isLater free noRead clean
      case reseats => exact State.segmentVerified_reseats (x := w) rfl m reseat empty
      case forgets => exact State.segmentVerified_forgets (x := w) rfl m forget empty
    case differs =>
      rw [State.verifyCompared_differs s1 ch x inside before differs] at run
      refine ⟨fun l left head clean => ⟨_, run, State.segmentFailed_retries rfl m left head clean _ _⟩,
        fun spent empty => ⟨_, run, ?_⟩⟩
      have fails := State.segmentFailed_fails rfl m spent empty r.area.detail (r.start + i)
      rw [← Area.detailWord_eq] at fails
      exact fails

end Sys2Proof.Machine
end

section
/-! SUPPORT. The grant of a channel (R90, R110–R114), and the proof of O31. -/

namespace Sys2Proof.Machine

/-! ## The channel -/

/-- The lowest-numbered free channel (R111). -/
theorem State.freeChannel_lowest {s : State} {ch : Fin 4} (free : s.channels[ch].ctx = none)
    (taken : ∀ d : Fin 4, d < ch → s.channels[d].ctx ≠ none) : s.freeChannel = some ch := by
  rw [State.freeChannel, List.find?_eq_some_iff_getElem]
  refine ⟨by rw [free]; rfl, ch.val, by simp, by simp, fun j below => ?_⟩
  have held := taken ⟨j, Nat.lt_trans below ch.isLt⟩ below
  simpa [Option.isSome_iff_ne_none] using held

theorem State.freeChannel_none {s : State} (taken : ∀ d : Fin 4, s.channels[d].ctx ≠ none) : s.freeChannel = none := by
  rw [State.freeChannel, List.find?_eq_none]
  intro d _ free
  exact taken d (Option.isNone_iff_eq_none.1 free)

/-- With no pending set, or the flag clear, the channel's active set stays (R90). -/
theorem State.adoptChannel_none {s : State} {ch : Fin 4}
    (same : s.pendingTiming = none ∨ s.channels[ch].adoptionDue = false) : s.adoptChannel ch = s := by
  unfold State.adoptChannel
  rcases same with absent | clear
  · rw [absent]
  · split
    · rfl
    · rw [if_neg (by rw [clear]; exact Bool.false_ne_true)]

/-- A channel that has adopted this set (R90). -/
def Channel.adopted (t : TimingSet) (h : Channel) : Channel := { h with active := t, adoptionDue := false }

theorem State.adoptChannel_due {s : State} {ch : Fin 4} {t : TimingSet} (pending : s.pendingTiming = some t)
    (due : s.channels[ch].adoptionDue = true) :
    s.adoptChannel ch = (s.modChannel ch (Channel.adopted t)).settlePending := by
  unfold State.adoptChannel
  rw [pending]
  exact if_pos due

/-- The adoption of a pending set by a channel whose flag is set; the pending set goes with the last flag (R90). -/
theorem State.adoptChannel_becomes {s : State} {ch : Fin 4} {t : TimingSet} (pending : s.pendingTiming = some t)
    (due : s.channels[ch].adoptionDue = true) :
    let a := s.adoptChannel ch
    channelBecomes ch (s.channels[ch].adopted t) { s with pendingTiming := a.pendingTiming } a ∧
    (a.adoptionLeft → a.pendingTiming = some t) ∧ (¬a.adoptionLeft → a.pendingTiming = none) := by
  dsimp only
  rw [State.adoptChannel_due pending due, State.settlePending_adoptionLeft, State.settlePending_eq]
  exact ⟨channelBecomes_modChannel rfl, fun left => (if_pos left).trans pending, fun clear => if_neg clear⟩

/-- An adoption of a channel changes the channels and the pending set alone (R90). -/
theorem State.adoptChannel_kept (s : State) (ch : Fin 4) : ∃ (channels : Vector Channel 4) (timing : Option TimingSet),
    s.adoptChannel ch = { s with channels := channels, pendingTiming := timing } := by
  unfold State.adoptChannel
  split
  · exact ⟨_, _, rfl⟩
  · split
    · rw [State.settlePending_eq]
      exact ⟨_, _, rfl⟩
    · exact ⟨_, _, rfl⟩

/-! ## The cage -/

/-- A cage that is granted a channel: in RESTORE with its timer IDLE and its restore-incomplete flag set (R47, R70, R111). -/
def Cage.granted (policy : PresencePolicy) (c : Cage) : Cage := { c with
  seq := { c.seq with state := .restore, adoptPending := false, pint := false, ppres := ppresFor policy .restore,
                      attempt := none, due := .none, ret := none, started := false }
  timer := { c.timer with use := .idle }
  journal := { c.journal with incomplete := true } }

/-- A grant changes the channel and the cage, and begins the first segment (R111, R113). -/
theorem State.grant_eq (s : State) (ch : Fin 4) (k : CageId) : s.grant ch k =
    ((s.adoptChannel ch).changed k (Cage.granted s.profile.policy) ch (ChannelCtx.granted k)).startSegment ch
      (ChannelCtx.granted k) 0 := by
  obtain ⟨channels, timing, adopted⟩ := s.adoptChannel_kept ch
  unfold State.grant State.modJournal State.idleTimer State.enter
  dsimp only
  rw [adopted, State.modCage_modCage, State.modCage_modCage]
  rfl

theorem exec_channelGrant_idle {s : State} (idle : s.staged = [] ∨ ∀ d : Fin 4, s.channels[d].ctx ≠ none) :
    exec .channelGrant s = .next s := by
  rcases idle with empty | taken
  · simp only [exec, execChannelGrant, empty]
  · simp only [exec, execChannelGrant, State.freeChannel_none taken]
    cases s.staged <;> rfl

theorem exec_channelGrant_head {s : State} {k : CageId} {rest : List CageId} {ch : Fin 4} (head : s.staged = k :: rest)
    (free : s.freeChannel = some ch) : exec .channelGrant s = .next ({ s with staged := rest }.grant ch k) := by
  simp only [exec, execChannelGrant, head, free]

/-! ## The first segment -/

section
variable {s : State} {k : CageId} (ch : Fin 4) {x : ChannelCtx} (cage : x.cage = k) (f : Cage → Cage) (y : ChannelCtx)
include cage

/-- The first record of a segment begun after a change of the cage, by the read of its slot (R113, R114, R122). -/
theorem State.startSegment_changed {a n i : Nat} (first : (f (s.cage k)).journal.firstFrom a n i) :
    let c := f (s.cage k)
    let z := { x with segIndex := n, recIndex := 0, retriesUsed := 0, pass := .write }
    let writes := s.channels[ch].begun ({ z with stage := .replay }.working (.write (s.recordIn i)))
    let t := (s.changed k f ch y).startSegment ch x a
    (s.clean i → bothBecome k c ch writes s t) ∧
    (s.correctable i → bothBecome k c ch writes (s.corrected k c.seq.shown i) t) ∧
    (s.uncorrectable i → c.buffers.queue = [] →
      bothBecome k { c with
          journal := { c.journal with state := .damaged }
          buffers := { c.buffers with closed := true } } ch
        (s.channels[ch].begun ({ z with stage := .ending, path := .failed }.working (.ret c.gate.ctrl)))
        (s.takeFault (s.slotFault .uncorrectable k c.seq.shown i)) t) := by
  subst cage
  let u := s.changed x.cage f ch y
  let z : ChannelCtx := { x with stage := .replay, segIndex := n, recIndex := 0, retriesUsed := 0, pass := .write }
  have own := State.changed_cage s x.cage f ch y
  have first' : (u.cage x.cage).journal.firstFrom a n i := by
    rw [own]
    exact first
  have frames := u.startWrite_frames ch z x.cage rfl i (CageRecord.segment_firstFrom _ _ _ _ first')
  rw [own, State.changed_channel] at frames
  obtain ⟨clean, correctable, uncorrectable⟩ := frames
  rw [State.startSegment_firstFrom u ch x a n i first']
  exact ⟨fun h => bothBecome_of_mod (clean h),
    fun h => bothBecome_of_mod (s := s.corrected x.cage _ i) (f := f) (g := fun h => { h with ctx := some y }) (correctable h),
    fun h empty => bothBecome_of_mod (s := s.takeFault _) (f := f) (g := fun h => { h with ctx := some y })
      (uncorrectable h empty)⟩

omit cage in
/-- A journal without records goes through the completion point (R113, R128). -/
theorem State.startSegment_empty (empty : (s.cage x.cage).journal.slots = []) (a : Nat) :
    s.startSegment ch x a = s.completionPoint ch x := by
  simp only [State.startSegment, CageRecord.nextSegment_empty _ empty]

end

theorem State.adoptSeq_journal (s : State) (k : CageId) : ((s.adoptSeq k).cage k).journal = (s.cage k).journal := by
  obtain ⟨t, due, adopted⟩ := s.adoptSeq_cage k
  rw [adopted]

/-- The syndrome of a data or field bit: its own, odd, of three bits or more, and naming it (R192). -/
theorem columns_syndrome {i j : Nat} (hi : i < codedBits) (hj : j < codedBits) :
    (columns.getD i 0 = columns.getD j 0 → i = j) ∧ bitCount (columns.getD i 0) % 2 = 1 ∧
      3 ≤ bitCount (columns.getD i 0) ∧ namedBit? (columns.getD i 0) = some i := by
  have own : columns.getD i 0 ∈ columns := by
    rw [List.getD_eq_getElem _ _ (columns_length ▸ hi)]
    exact List.getElem_mem _
  obtain ⟨odd, three⟩ := columns_odd own
  refine ⟨fun same => ?_, odd, three, namedBit?_columns hi⟩
  have named := namedBit?_columns hi
  rw [same, namedBit?_columns hj] at named
  exact (Option.some.inj named).symm

/-- Settles O31: a grant is `State.grant_eq`, its first record `State.startSegment_changed`, and an empty journal's
completion point by the directive slot. -/
theorem grantTakesHead : Obligations.GrantTakesHead := by
  unfold Obligations.GrantTakesHead
  refine ⟨fun i j hi hj => columns_syndrome hi hj, fun s => ⟨exec_channelGrant_idle, ?granted⟩⟩
  case granted =>
    intro k rest ch head free taken a c granted x closed becomes
    have run : exec .channelGrant s = .next ((a.changed k (Cage.granted s.profile.policy) ch x).startSegment ch x 0) := by
      rw [exec_channelGrant_head head (State.freeChannel_lowest free taken), State.grant_eq]
      rfl
    refine ⟨fun same => State.adoptChannel_none same, fun t pending due => State.adoptChannel_becomes pending due, ?_⟩
    obtain ⟨channels, timing, adopted⟩ := State.adoptChannel_kept { s with staged := rest } ch
    have kept : a = { s with staged := rest, channels := channels, pendingTiming := timing } := adopted
    clear_value a
    subst kept
    refine ⟨fun n i first => ?records, fun noRecords empty => ?completion⟩
    case records =>
      obtain ⟨clean, correctable, uncorrectable⟩ := State.startSegment_changed
        (s := { s with staged := rest, channels := channels, pendingTiming := timing }) ch (x := x) rfl
        (Cage.granted s.profile.policy) x first
      exact ⟨fun h => ⟨_, run, clean h⟩, fun h => ⟨_, run, correctable h⟩,
        fun h empty => ⟨_, run, uncorrectable h empty⟩⟩
    case completion =>
      let u : State := { s with staged := rest, channels := channels, pendingTiming := timing }
      let f := Cage.granted s.profile.policy
      rw [State.startSegment_empty ch (x := x) (by rw [State.changed_cage]; exact noRecords)] at run
      refine ⟨fun noDirective => ⟨_, run, ?returns⟩, fun arg reseat => ?reseats, fun arg forget => ⟨_, run, ?forgets⟩⟩
      case returns => exact State.completionPoint_returns (s := u) (f := f) ch (x := x) rfl x noDirective empty
      case reseats =>
        have reseats := State.completionPoint_reseats (s := u) (f := f) ch (x := x) rfl x reseat (fun _ => rfl)
          (fun _ => rfl) (fun _ _ => rfl) empty
        rw [show f = Cage.granted s.profile.policy from rfl, Cage.granted, State.adoptSeq_journal] at reseats
        exact ⟨_, run, reseats⟩
      case forgets =>
        have forgets := State.completionPoint_forgets (s := u) (k := k) (f := f) ch (x := x) rfl x forget empty
        dsimp only at forgets
        rw [show (f (u.cage k)).journal.slots = [] from noRecords] at forgets
        exact forgets

end Sys2Proof.Machine
end

section
/-! SUPPORT. A command of the upper port by what the gate does with it, and the gate's answers and refusals. -/

namespace Sys2Proof.Machine

/-! ## The gate's moves -/

theorem Gate.refuseRest_nack (g : Gate) (h : InHand) : g.refuseRest h .nack = g.refuses h := rfl

theorem State.modGate_modGate (s : State) (k : CageId) (f g : Gate → Gate) :
    (s.modGate k f).modGate k g = s.modGate k fun x => g (f x) := State.modCage_modCage s k _ _

@[simp] theorem State.modGate_resetLoading (s : State) (k : CageId) (f : Gate → Gate) :
    (s.modGate k f).resetLoading = s.resetLoading := rfl

theorem cageBecomes.loader {k : CageId} {c : Cage} {s t : State} (h : cageBecomes k c s t) : t.loader = s.loader := by
  obtain ⟨_, _, _, _, _, _, _, loader, _⟩ := h
  exact loader

/-! ## Commands of the upper port -/

section
variable {s : State} {k : CageId}

/-- While RESET_n is asserted a command of the upper port is passed over (R141). -/
theorem State.upper_lineReset (asserted : s.lineReset = true) (hunt : UpAnswer) (f : Gate → State) :
    s.upper k hunt f = s := by
  simp only [State.upper, asserted, if_true]

/-- In HUNT a command of the upper port is answered and the bus is not free (R156). -/
theorem State.upper_hunt (released : s.lineReset = false) (hunts : (s.cage k).gate.relay = .hunt) (hunt : UpAnswer)
    (f : Gate → State) : s.upper k hunt f = s.modGate k fun g => { g with answer := hunt, stallElapsed := 0 } := by
  simp only [State.upper, released, hunts, Bool.false_eq_true, if_false, if_true]
  rfl

/-- Outside HUNT a command of the upper port is done, and the stall timer is quiet while a reset load is in progress (R143). -/
theorem State.upper_done (released : s.lineReset = false) (quiet : (s.cage k).gate.relay ≠ .hunt) (hunt : UpAnswer)
    (f : Gate → State) : s.upper k hunt f = (f (s.cage k).gate).quietStall k := by
  simp only [State.upper, released, quiet, Bool.false_eq_true, if_false]

end

/-- The bytes that a command of the controller's side brings, with what a gate in HUNT answers (R156). -/
theorem exec_inHunt {s : State} {k : CageId} (released : s.lineReset = false) (hunts : (s.cage k).gate.relay = .hunt)
    {i : Instr} {a : UpAnswer} {f : Gate → State} (run : exec i s = .next (s.upper k a f)) :
    ∃ t : State, exec i s = .next t ∧
      cageBecomes k { s.cage k with gate := { (s.cage k).gate with answer := a, stallElapsed := 0 } } s t :=
  ⟨_, run, by rw [State.upper_hunt released hunts]; exact cageBecomes_modGate rfl⟩

end Sys2Proof.Machine
end

section
/-! SUPPORT. UPPER_START: the gate's adoption of a pending timing set (R90), the transaction it opens (R141), and the proof of
O36. -/

namespace Sys2Proof.Machine

/-! ## The gate's adoption -/

/-- A gate that has adopted this set (R90). -/
def Gate.adopted (t : TimingSet) (g : Gate) : Gate := { g with active := t, adoptionDue := false }

section
variable {s : State} {k : CageId}

/-- With no set pending, or the flag clear, the gate's active set stays (R90). -/
theorem State.adoptGate_none (same : s.pendingTiming = none ∨ (s.cage k).gate.adoptionDue = false) :
    s.adoptGate k = s := by
  unfold State.adoptGate
  rcases same with absent | clear
  · rw [absent]
  · split
    · rfl
    · rw [if_neg (by rw [clear]; exact Bool.false_ne_true)]

theorem State.adoptGate_due {t : TimingSet} (pending : s.pendingTiming = some t)
    (due : (s.cage k).gate.adoptionDue = true) : s.adoptGate k = (s.modGate k (Gate.adopted t)).settlePending := by
  unfold State.adoptGate
  rw [pending]
  exact if_pos due

/-- A frame does not speak of the pending set that both states are given. -/
theorem cageBecomes.withPendingTiming {c : Cage} {u : State} (h : cageBecomes k c s u) (t : Option TimingSet) :
    cageBecomes k c { s with pendingTiming := t } { u with pendingTiming := t } := by
  obtain ⟨cage, others, channels, staged, power, store, log, loader, notice, _, lineReset, pending⟩ := h
  exact ⟨cage, others, channels, staged, power, store, log, loader, notice, rfl, lineReset, pending⟩

/-- The adoption of a pending set by a gate whose flag is set; the pending set goes with the last flag (R90). -/
theorem State.adoptGate_becomes {t : TimingSet} (pending : s.pendingTiming = some t)
    (due : (s.cage k).gate.adoptionDue = true) :
    let a := s.adoptGate k
    cageBecomes k { s.cage k with gate := (s.cage k).gate.adopted t } { s with pendingTiming := a.pendingTiming } a ∧
    (a.adoptionLeft → a.pendingTiming = some t) ∧ (¬a.adoptionLeft → a.pendingTiming = none) := by
  dsimp only
  rw [State.adoptGate_due pending due, State.settlePending_adoptionLeft, State.settlePending_eq]
  exact ⟨(cageBecomes_modGate rfl).withPendingTiming _, fun left => (if_pos left).trans pending, fun clear => if_neg clear⟩

end

/-- An adoption of a gate leaves the loader alone (R90). -/
theorem State.adoptGate_loader (s : State) (k : CageId) : (s.adoptGate k).loader = s.loader := by
  unfold State.adoptGate
  split
  · rfl
  · split
    · rw [State.settlePending_eq]
      rfl
    · rfl

/-! ## The transaction opened -/

/-- A gate that has opened a transaction: its stall timer runs unless a check of the sequencer's runs on it, and not while a
reset load is in progress (R94, R141, R143, R157). -/
def Gate.opens (g : Gate) (loading : Bool) : Gate := { g with
  relay := .holding
  answer := .none
  stallUse := if loading then .stopped else if g.stuckForSeq then g.stallUse else .upstream
  stallElapsed := if loading then 0 else if g.stuckForSeq then g.stallElapsed else 0
  inHand := some (InHand.opened g.ctrl.sheet loading) }

/-- In service a gate opens its transaction at once (R141). -/
theorem Gate.openTransaction_serves (g : Gate) : g.openTransaction false = g.opens false := by
  unfold Gate.openTransaction Gate.opens
  cases g.stuckForSeq <;> rfl

/-- While a reset load is in progress the transaction opened is quiet (R143). -/
theorem Gate.openTransaction_loads (g : Gate) : (g.openTransaction true).stopStall = g.opens true := by
  unfold Gate.openTransaction Gate.opens
  cases g.stuckForSeq <;> rfl

/-- A transaction opened, whether a reset load is in progress or not. -/
theorem State.openTransaction_quietStall (s : State) (k : CageId) :
    (s.modGate k fun g => g.openTransaction s.resetLoading).quietStall k =
      s.modGate k fun g => g.opens s.resetLoading := by
  unfold State.quietStall
  rw [State.modGate_resetLoading]
  cases s.resetLoading with
  | false => simp only [Gate.openTransaction_serves, Bool.false_eq_true, if_false]
  | true => simp only [State.modGate_modGate, Gate.openTransaction_loads, if_true]

/-- UPPER_START outside HUNT while RESET_n is released (R90, R141, R143). -/
theorem exec_upperStart {s : State} {k : CageId} (released : s.lineReset = false)
    (quiet : (s.cage k).gate.relay ≠ .hunt) : exec (.upperStart k) s =
      .next (if (s.cage k).gate.relay = .idle then (s.adoptGate k).modGate k fun g => g.opens s.resetLoading
        else s.quietStall k) := by
  show Host.Outcome.next (s.upper k .none _) = _
  rw [State.upper_done released quiet]
  split
  · rw [← State.resetLoading_congr (s.adoptGate_loader k), State.openTransaction_quietStall]
  · rfl

/-- Settles O36: the adoption by `State.adoptGate_becomes`, the transaction opened by `Gate.opens`. -/
theorem startOpensTransaction : Obligations.StartOpensTransaction := by
  unfold Obligations.StartOpensTransaction
  intro k s
  refine ⟨⟨State.adoptGate_none, fun t => State.adoptGate_becomes⟩, fun asserted => ?reset,
    fun released hunts => exec_inHunt released hunts rfl, fun released serves busy => ?busy, fun released idle => ?idle⟩
  case reset =>
    exact congrArg Host.Outcome.next (State.upper_lineReset asserted .none _)
  case busy =>
    have outside : (s.cage k).gate.relay ≠ .hunt ∧ (s.cage k).gate.relay ≠ .idle := by
      rcases busy with busy | busy <;> simp [busy]
    rw [exec_upperStart released outside.1, if_neg outside.2, State.quietStall_inService s k serves]
  case idle =>
    refine ⟨_, exec_upperStart released (by simp [idle]), ?_⟩
    rw [if_pos idle]
    exact cageBecomes_modGate rfl

end Sys2Proof.Machine
end

section
/-! SUPPORT. ADDRESS_BYTE and OFFSET_BYTE: the decisions of the gate at the address byte, at the delayed read slot and at the
offset byte (R143–R146, R164, R169), and the proofs of O37 and O38. -/

namespace Sys2Proof.Machine

/-! ## The commands -/

section
variable {s : State} {k : CageId} {h : InHand}

theorem exec_addressByte (takes : s.takes k h .address) (addr : BitVec 7) (read cdaLow : Bool)
    (loader : (s.decideAddress k h addr read cdaLow).loader = s.loader) :
    exec (.addressByte k addr read cdaLow) s = .next (s.decideAddress k h addr read cdaLow) :=
  congrArg Host.Outcome.next (State.upper_takes takes .nack _ _ (by rw [State.takes_at takes]) loader)

theorem exec_offsetByte (takes : s.takes k h .offset) (offset : Byte) (cdaLow : Bool)
    (loader : (s.decideOffset k h offset cdaLow).loader = s.loader) :
    exec (.offsetByte k offset cdaLow) s = .next (s.decideOffset k h offset cdaLow) :=
  congrArg Host.Outcome.next (State.upper_takes takes .nack _ _ (by rw [State.takes_at takes]) loader)

end

/-! ## The address byte -/

/-- The transaction in hand with its address byte complete (R140). -/
def InHand.addressed (h : InHand) (p : Profile) (addr : BitVec 7) (read : Bool) : InHand :=
  { h with addressByte := some (addressByteOf addr read), toModule := decide (addr = p.moduleAddr) }

theorem CageState.relays_iff (st : CageState) : st.relays = true ↔ st = .live ∨ st = .held ∨ st = .faulted := by
  cases st <;> simp [CageState.relays]

section
variable {s : State} {k : CageId} {h : InHand} {addr : BitVec 7} {read : Bool} (cdaLow : Bool)

/-- A transaction refused before its address byte stays refused (R143). -/
theorem State.decideAddress_refused (refused : h.treatment = .refuse) : s.decideAddress k h addr read cdaLow =
    s.modGate k fun g => g.waits { h.addressed s.profile addr read with stage := .data } .nack := by
  unfold State.decideAddress
  exact if_pos refused

variable (opened : h.treatment ≠ .refuse)
include opened

/-- A write to the module goes on to its offset byte (R143). -/
theorem State.decideAddress_write (own : addr = s.profile.moduleAddr) (write : read = false) :
    s.decideAddress k h addr read cdaLow =
      s.modGate k fun g => g.waits { h.addressed s.profile addr read with stage := .offset } .ack := by
  unfold State.decideAddress
  dsimp only
  rw [if_neg opened, if_pos (by simp [own, write])]
  rfl

variable (reaches : addr ≠ s.profile.moduleAddr ∨ read = true)
include reaches

/-- A read of the module, or a transaction to another address, is relayed where the cage relays (R143). -/
theorem State.decideAddress_relays (relays : (s.stateOf k).relays = true) : s.decideAddress k h addr read cdaLow =
    s.modGate k fun g => g.relays (h.addressed s.profile addr read) .relay cdaLow := by
  unfold State.decideAddress
  dsimp only
  rw [if_neg opened, if_neg (by simpa [imp_iff_not_or] using reaches), if_pos relays]
  rfl

variable (holds : (s.stateOf k).relays = false)
include holds

/-- Where the cage does not relay it is refused, but for a read of the module in RESTORE (R143). -/
theorem State.decideAddress_refuses (unserved : addr ≠ s.profile.moduleAddr ∨ s.stateOf k ≠ .restore) :
    s.decideAddress k h addr read cdaLow = s.modGate k fun g => g.refuses (h.addressed s.profile addr read) := by
  unfold State.decideAddress
  dsimp only
  rw [if_neg opened, if_neg (by simpa [imp_iff_not_or] using reaches), if_neg (by simp [holds]),
    if_neg (by simpa [imp_iff_not_or] using unserved)]
  rfl

/-- In RESTORE a read of the module goes to the delayed read slot (R143, R169). -/
theorem State.decideAddress_slot (own : addr = s.profile.moduleAddr) (restoring : s.stateOf k = .restore) :
    s.decideAddress k h addr read cdaLow = s.readSlotDecide k (h.addressed s.profile addr read) := by
  unfold State.decideAddress
  dsimp only
  rw [if_neg opened, if_neg (by simpa [imp_iff_not_or] using reaches), if_neg (by simp [holds]),
    if_pos (by simp [own, restoring])]
  rfl

end

/-! ## The delayed read slot -/

/-- What the decision of a read at the delayed read slot makes of its cage (R169, R170): the buffers, whether the read is
served, and the read discards counted. -/
def Cage.slotDecided (h : InHand) (b : Buffers) (served : Bool) (discards : BitVec 16) (c : Cage) : Cage := { c with
  gate := { c.gate with port := .free }.waits { h with treatment := .readSlot, stage := .data, served := served }
    (if served then .ack else .nack)
  buffers := b
  seq := { c.seq with counters := { c.seq.counters with readDiscards := c.seq.counters.readDiscards + discards } } }

theorem State.readSlotDecide_becomes {s : State} {k : CageId} (h : InHand) {b : Buffers} {served discarded : Bool}
    (decided : (s.cage k).buffers.decideRead (s.cage k).gate.ctrl = (b, served, discarded)) :
    cageBecomes k ((s.cage k).slotDecided h b served (if discarded then 1 else 0)) s (s.readSlotDecide k h) := by
  unfold State.readSlotDecide
  dsimp only
  rw [decided]
  unfold State.count State.modBuffers State.modGate State.modSeq
  simp only [State.modCage_modCage]
  cases discarded with
  | true => exact cageBecomes_modCage rfl
  | false =>
    simp only [Bool.false_eq_true, if_false]
    refine cageBecomes_modCage ?_
    have same (n : BitVec 16) : n + 0 = n := BitVec.add_zero n
    simp only [Cage.slotDecided, same]
    rfl

section
variable {b : Buffers} {loc l : Cursor}

theorem Buffers.decideRead_ready {data : List Byte} (slot : b.slot = .ready loc data) :
    b.decideRead loc = ({ b with discard := none }, true, false) := by
  simp only [Buffers.decideRead, slot, if_true]

theorem Buffers.decideRead_readyElsewhere {data : List Byte} (elsewhere : l ≠ loc) (slot : b.slot = .ready l data) :
    b.decideRead loc = ({ b with slot := .pending loc false, discard := none }, false, true) := by
  simp only [Buffers.decideRead, slot, if_neg elsewhere]

theorem Buffers.decideRead_pending {f : Bool} (slot : b.slot = .pending loc f) :
    b.decideRead loc = (b, false, false) := by
  simp only [Buffers.decideRead, slot, if_true]

theorem Buffers.decideRead_pendingElsewhere {f : Bool} (elsewhere : l ≠ loc) (slot : b.slot = .pending l f) :
    b.decideRead loc = ({ b with slot := .pending loc false }, false, true) := by
  simp only [Buffers.decideRead, slot, if_neg elsewhere]

theorem Buffers.decideRead_free (slot : b.slot = .free) :
    b.decideRead loc = ({ b with slot := .pending loc false }, false, false) := by
  simp only [Buffers.decideRead, slot]

end

/-- Settles O37: the rows of R143 by `State.decideAddress`, those of the read slot by `Buffers.decideRead`. -/
theorem addressByteDecides : Obligations.AddressByteDecides := by
  unfold Obligations.AddressByteDecides
  intro k addr read cdaLow h s c takes toModule h1 relaying gateIs
  have gate {f : Gate → Gate} (decided : s.decideAddress k h addr read cdaLow = s.modGate k f) : gateIs (f c.gate) :=
    ⟨_, exec_addressByte takes addr read cdaLow (by rw [decided]; rfl), by rw [decided]; exact cageBecomes_modGate rfl⟩
  have other : toModule = false → addr ≠ s.profile.moduleAddr := of_decide_eq_false
  have silent (still : ¬relaying) : (s.stateOf k).relays = false :=
    Bool.eq_false_iff.2 (mt (CageState.relays_iff _).1 still)
  refine ⟨fun refused => gate (State.decideAddress_refused cdaLow refused),
    fun opened own write => gate (State.decideAddress_write cdaLow opened (of_decide_eq_true own) write),
    fun opened reaches relays => gate (State.decideAddress_relays cdaLow opened (reaches.imp_left other)
      ((CageState.relays_iff _).2 relays)),
    fun opened reaches still unserved => gate (State.decideAddress_refuses cdaLow opened (reaches.imp_left other)
      (silent still) (unserved.imp_left other)), ?slot⟩
  case slot =>
    intro opened own reads restoring loc held becomes
    have still : (s.stateOf k).relays = false := by rw [show s.stateOf k = _ from restoring]; rfl
    have decided : s.decideAddress k h addr read cdaLow = s.readSlotDecide k h1 :=
      State.decideAddress_slot cdaLow opened (.inr reads) still (of_decide_eq_true own) restoring
    have slot {b : Buffers} {served discarded : Bool} (decides : c.buffers.decideRead loc = (b, served, discarded)) :
        becomes (held served (if served then .ack else .nack)) b (if discarded then 1 else 0) := by
      have result := State.readSlotDecide_becomes h1 decides
      rw [← decided] at result
      exact ⟨_, exec_addressByte takes addr read cdaLow result.loader, result⟩
    exact ⟨fun _ is => slot (Buffers.decideRead_ready is), fun _ _ far is => slot (Buffers.decideRead_readyElsewhere far is),
      fun _ is => slot (Buffers.decideRead_pending is), fun _ _ far is => slot (Buffers.decideRead_pendingElsewhere far is),
      fun is => slot (Buffers.decideRead_free is)⟩

/-! ## The offset byte -/

theorem intercepted_iff (rules : List Rule) (offset : Byte) : intercepted rules offset = true ↔
    offset.toNat < 128 ∧ ∃ (i : Nat) (r : Rule), ruleOf rules .base offset = some (i, r) ∧ r.action = .intercept := by
  unfold intercepted
  rw [Bool.and_eq_true, decide_eq_true_eq]
  cases ruleOf rules .base offset with
  | none => simp
  | some p => simp [Prod.ext_iff]

section
variable {s : State} {k : CageId} (h : InHand) {offset : Byte} (cdaLow : Bool)

/-- An INTERCEPT position is taken by the gate (R145). -/
theorem State.decideOffset_intercepts (intercepts : intercepted s.profile.rules offset = true) :
    s.decideOffset k h offset cdaLow = s.modGate k fun g => { g with port := .free }.waits
      { h with offset := some offset, treatment := .intercept, stage := .data } .ack := by
  unfold State.decideOffset
  exact if_pos intercepts

variable (other : ¬intercepted s.profile.rules offset = true)
include other

theorem State.decideOffset_live (live : s.stateOf k = .live) : s.decideOffset k h offset cdaLow =
    s.modGate k fun g => g.relays { h with offset := some offset } .relayCapture cdaLow := by
  unfold State.decideOffset
  dsimp only
  rw [if_neg other, live]
  rfl

theorem State.decideOffset_relays (relays : s.stateOf k = .held ∨ s.stateOf k = .faulted) :
    s.decideOffset k h offset cdaLow =
      s.modGate k fun g => g.relays { h with offset := some offset } .relay cdaLow := by
  unfold State.decideOffset
  dsimp only
  rw [if_neg other]
  rcases relays with state | state <;> rw [state] <;> rfl

theorem State.decideOffset_restore (restoring : s.stateOf k = .restore) : s.decideOffset k h offset cdaLow =
    s.deferOffset k { h with offset := some offset } offset := by
  unfold State.decideOffset
  dsimp only
  rw [if_neg other, restoring]

theorem State.decideOffset_refuses (live : s.stateOf k ≠ .live) (held : s.stateOf k ≠ .held)
    (faulted : s.stateOf k ≠ .faulted) (restore : s.stateOf k ≠ .restore) : s.decideOffset k h offset cdaLow =
      s.modGate k fun g => g.refuses { h with offset := some offset } := by
  unfold State.decideOffset
  dsimp only
  rw [if_neg other]
  cases state : s.stateOf k with
  | live => exact absurd state live
  | held => exact absurd state held
  | faulted => exact absurd state faulted
  | restore => exact absurd state restore
  | _ => rfl

end

section
variable {s : State} {k : CageId} (h : InHand) (offset : Byte)

/-- A CLOSED queue takes no entry (R164). -/
theorem State.deferOffset_closed (closed : (s.cage k).buffers.closed = true) : s.deferOffset k h offset =
    s.modGate k fun g =>
      { g with port := .free }.waits { h with treatment := .defer, stage := .data, place := .closed } .ack := by
  unfold State.deferOffset
  exact if_pos closed

variable (opened : (s.cage k).buffers.closed = false)
include opened

/-- Where fewer than four wait, the write joins the queue as a FILLING entry (R164). -/
theorem State.deferOffset_joins (room : (s.cage k).buffers.queue.length < 4) : s.deferOffset k h offset =
    s.modCage k fun c => { c with
      gate := { c.gate with port := .free }.waits { h with treatment := .defer, stage := .data, place := .queued } .ack
      buffers := { c.buffers with
        queue := c.buffers.queue ++ [{ sheet := h.refSheet, offset := offset, data := [], filling := true }] } } := by
  unfold State.deferOffset
  dsimp only
  rw [if_neg (by simp [opened]), if_pos room]
  exact State.modCage_modCage s k _ _

/-- A full queue refuses the write, which is counted (R164). -/
theorem State.deferOffset_refuses (full : 4 ≤ (s.cage k).buffers.queue.length) : s.deferOffset k h offset =
    s.modCage k fun c => { c with
      gate := c.gate.refuses h
      seq := { c.seq with counters := c.seq.counters.busyRefusal } } := by
  unfold State.deferOffset
  dsimp only
  rw [if_neg (by simp [opened]), if_neg (Nat.not_lt.2 full)]
  unfold State.count State.modSeq State.modGate
  rw [State.modCage_modCage]
  rfl

end

/-- Settles O38: the decision by `State.decideOffset`, the place in the queue by `State.deferOffset`. -/
theorem offsetByteDecides : Obligations.OffsetByteDecides := by
  unfold Obligations.OffsetByteDecides
  intro k offset cdaLow h s c takes h1 isIntercept becomes atGate
  have cage {f : Cage → Cage} (decided : s.decideOffset k h offset cdaLow = s.modCage k f) : becomes (f c) :=
    ⟨_, exec_offsetByte takes offset cdaLow (by rw [decided]; rfl), by rw [decided]; exact cageBecomes_modCage rfl⟩
  refine ⟨fun intercepts => cage (State.decideOffset_intercepts h cdaLow ((intercepted_iff _ _).2 intercepts)),
    fun outside => ?_⟩
  have other := mt (intercepted_iff s.profile.rules offset).1 outside
  have defers (restoring : c.seq.state = .restore) := State.decideOffset_restore (k := k) h cdaLow other restoring
  exact ⟨fun live => cage (State.decideOffset_live h cdaLow other live),
    fun relays => cage (State.decideOffset_relays h cdaLow other relays),
    fun restoring closed => cage ((defers restoring).trans (State.deferOffset_closed h1 offset closed)),
    fun restoring opened room => cage ((defers restoring).trans (State.deferOffset_joins h1 offset opened room)),
    fun restoring opened full => cage ((defers restoring).trans (State.deferOffset_refuses h1 offset opened full)),
    fun live held faulted restore => cage (State.decideOffset_refuses h cdaLow other live held faulted restore)⟩

end Sys2Proof.Machine
end

section
/-! SUPPORT. DOWNSTREAM_ADDRESS_ANSWER: the cage port's answer to a relayed address or offset (R144, R147, R150), and the proof
of O39. -/

namespace Sys2Proof.Machine

/-- A gate that stretches UCL with no check of CDA running waits for the cage port's answer (R157). -/
theorem Gate.awaitsAnswer_of {g : Gate} (stretches : g.stretching = true) (unchecked : g.stallUse ≠ .stuck)
    (unclear : g.clearing = false) : g.awaitsAnswer = true := by
  simp [Gate.awaitsAnswer, stretches, unchecked, unclear]

theorem exec_downstreamAddressAnswer {s : State} {k : CageId} {h : InHand} (hand : (s.cage k).gate.inHand = some h)
    (awaits : (s.cage k).gate.awaitsAnswer = true) (ack : Bool) :
    exec (.downstreamAddressAnswer k ack) s = .next (s.modGate k fun g => g.downAnswer h ack) := by
  simp only [exec, execDownstreamAddressAnswer, hand, awaits, if_true]

section
variable (g : Gate) {h : InHand} {ack : Bool}

/-- An address answered where no offset follows: the relay has begun (R144, R150; log entry 15). -/
theorem Gate.downAnswer_relays (stage : h.stage = .downAddress) (last : h.offset = none)
    (passes : ack = true ∨ h.toModule = false) : g.downAnswer h ack =
      { { g with port := .busy }.waits { h with stage := .data } (if ack then .ack else .nack) with relay := .relaying } := by
  have goesOn : (ack || !h.toModule) = true := by rcases passes with yes | other <;> simp [*]
  simp only [Gate.downAnswer, stage, last, goesOn, if_true]
  rfl

/-- A NACKed address of the module is the end of the relay (R144, R150). -/
theorem Gate.downAnswer_addressNacked (stage : h.stage = .downAddress) (last : h.offset = none) (nack : ack = false)
    (own : h.toModule = true) : g.downAnswer h ack = g.refuses h := by
  simp only [Gate.downAnswer, stage, last, nack, own, Bool.not_true, Bool.or_false, Bool.false_eq_true, if_false]
  rfl

/-- The address of a write to the module is followed by its offset (R147). -/
theorem Gate.downAnswer_address {o : Byte} (stage : h.stage = .downAddress) (offset : h.offset = some o) :
    g.downAnswer h ack = if ack then
        { g with port := .busy, inHand := some { h with stage := .downOffset }, stallUse := .stopped, stallElapsed := 0 }
      else g.refuses h := by
  simp only [Gate.downAnswer, stage, offset]
  rfl

/-- An ACKed offset sets both pointers (R147, R152). -/
theorem Gate.downAnswer_offset {o : Byte} (stage : h.stage = .downOffset) (offset : h.offset = some o) :
    g.downAnswer h ack = if ack then
        { (g.offsetTaken o).waits { h with stage := .data } .ack with relay := .relaying }
      else g.refuses h := by
  simp only [Gate.downAnswer, stage, offset]
  rfl

end

/-- Settles O39, by the stage of the transaction and whether it has an offset. -/
theorem cagePortAnswerPassedUp : Obligations.CagePortAnswerPassedUp := by
  unfold Obligations.CagePortAnswerPassedUp
  intro k h ack s c hand unchecked unclear becomes busy
  have answered {g : Gate} (stage : h.stage = .downAddress ∨ h.stage = .downOffset)
      (answers : c.gate.downAnswer h ack = g) : becomes g := by
    have stretches : c.gate.stretching = true := (Gate.stretching_inHand hand).2 stage
    exact ⟨_, exec_downstreamAddressAnswer hand (Gate.awaitsAnswer_of stretches unchecked unclear) ack,
      cageBecomes_modGate answers⟩
  refine ⟨fun stage last passes => answered (.inl stage) (Gate.downAnswer_relays _ stage last passes),
    fun stage last nack own => answered (.inl stage) (Gate.downAnswer_addressNacked _ stage last nack own),
    fun o stage offset => ?address, fun o stage offset => ?offset⟩
  case address =>
    have answers := Gate.downAnswer_address c.gate (ack := ack) stage offset
    exact ⟨fun yes => answered (.inl stage) (answers.trans (if_pos yes)),
      fun no => answered (.inl stage) (answers.trans (if_neg (by simp [no])))⟩
  case offset =>
    have answers := Gate.downAnswer_offset c.gate (ack := ack) stage offset
    exact ⟨fun yes => answered (.inr stage) (answers.trans (if_pos yes)),
      fun no => answered (.inr stage) (answers.trans (if_neg (by simp [no])))⟩

end Sys2Proof.Machine
end

section
/-! SUPPORT. WRITE_DATA_BYTE, READ_DATA_BYTE and SLOT_READ_BYTE: the answer and the cursors by the treatment of the transaction
in hand (R144, R147, R149, R150, R152, R170), and the proofs of O40 and O42. -/

namespace Sys2Proof.Machine

/-! ## The commands -/

section
variable {s : State} {k : CageId} {h : InHand} (takes : s.takes k h .data)
include takes

theorem exec_writeDataByte (b : Byte) (ack : Bool) (writes : h.reads = false) (undeferred : h.treatment ≠ .defer) :
    exec (.writeDataByte k b ack) s = .next (s.modGate k fun g => g.writeByte h b ack) :=
  congrArg Host.Outcome.next (State.upper_takes takes .nack _ _
    (by rw [State.takes_at takes]; exact if_neg (by simp [writes, undeferred])) rfl)

theorem exec_readDataByte (b : Byte) (ack : Bool) (reads : h.reads = true) :
    exec (.readDataByte k b ack) s = .next (s.modGate k fun g => g.readByte h b ack) :=
  congrArg Host.Outcome.next (State.upper_takes takes (.byte 0xFF) _ _
    (by rw [State.takes_at takes]; exact if_pos reads) rfl)

theorem exec_slotReadByte (ack : Bool) (held : h.treatment = .readSlot) : exec (.slotReadByte k ack) s =
    .next (s.modGate k fun g => g.slotByte h (s.cage k).buffers.slot ack) :=
  congrArg Host.Outcome.next (State.upper_takes takes (.byte 0xFF) _ _
    (by rw [State.takes_at takes]; exact if_pos held) rfl)

end

/-! ## The bytes of a write -/

section
variable (g : Gate) {h : InHand} (b : Byte) (ack : Bool)

theorem Gate.writeByte_intercept (treatment : h.treatment = .intercept) : g.writeByte h b ack =
    g.waits { h.counted with data := if h.data.length < 2 then h.data ++ [b] else h.data } .ack := by
  simp only [Gate.writeByte, treatment]
  rfl

theorem Gate.writeByte_refuse (treatment : h.treatment = .refuse) : g.writeByte h b ack = g.waits h.counted .nack := by
  simp only [Gate.writeByte, treatment]
  rfl

/-- At another address the cage port's answer is passed up (R144). -/
theorem Gate.writeByte_elsewhere (treatment : h.treatment = .relay) (other : h.toModule = false) :
    g.writeByte h b ack = g.waits h.counted (if ack then .ack else .nack) := by
  simp only [Gate.writeByte, treatment, other, Bool.false_eq_true, if_false]
  rfl

/-- A byte of a relayed write to the module (R147). -/
theorem Gate.writeByte_module (relays : h.treatment = .relayCapture ∨ (h.treatment = .relay ∧ h.toModule = true)) :
    g.writeByte h b ack = g.relayByte h b ack := by
  rcases relays with captures | ⟨relay, own⟩
  · simp only [Gate.writeByte, captures]
  · simp only [Gate.writeByte, relay, own, if_true]

/-- A byte that the gate answers itself: one after a refused byte, or beyond the bound of a capture (R147). -/
def InHand.beyond (h : InHand) : Prop := h.nacked = true ∨ (h.treatment = .relayCapture ∧ captureMax ≤ h.data.length)

theorem InHand.beyond_iff (h : InHand) :
    (h.nacked || (h.treatment == .relayCapture && decide (captureMax ≤ h.data.length))) = true ↔ h.beyond := by
  simp [InHand.beyond]

theorem Gate.relayByte_beyond (beyond : h.beyond) : g.relayByte h b ack =
    { (g.selects h).waits { h.counted with nacked := true, sheetSelect := none } .nack with port := .free } := by
  unfold Gate.relayByte
  dsimp only
  rw [if_pos (h.beyond_iff.2 beyond), Gate.applySelect_selects rfl]
  rfl

variable (within : ¬h.beyond)
include within

/-- A byte that the module takes moves both pointers and is kept (R147, R152). -/
theorem Gate.relayByte_taken : g.relayByte h b true = g.byteTaken.waits { h.counted with
    sheetSelect := if g.ctrl.pointer = 125 then some b else h.sheetSelect
    data := if h.treatment = .relayCapture then h.data ++ [b] else h.data } .ack := by
  unfold Gate.relayByte
  dsimp only
  rw [if_neg (mt h.beyond_iff.1 within)]
  rfl

/-- A byte that the module refuses (R147). -/
theorem Gate.relayByte_refused : g.relayByte h b false = g.waits { h.counted with nacked := true } .nack := by
  unfold Gate.relayByte
  dsimp only
  rw [if_neg (mt h.beyond_iff.1 within)]
  rfl

end

/-- Settles O40: the gates by `Gate.writeByte`, and in a relay to the module by `Gate.relayByte`. -/
theorem writeByteByTreatment : Obligations.WriteByteByTreatment := by
  unfold Obligations.WriteByteByTreatment
  refine ⟨?hunt, ?bytes⟩
  case hunt =>
    intro k i s c released hunts byte
    obtain ⟨a, b, x, y, rfl | rfl | rfl | rfl⟩ := byte <;> exact exec_inHunt released hunts rfl
  case bytes =>
    intro k b ack h s c takes writes n becomes beyond
    have byte {g : Gate} (undeferred : h.treatment ≠ .defer) (gives : c.gate.writeByte h b ack = g) : becomes g :=
      ⟨_, exec_writeDataByte takes b ack writes undeferred, cageBecomes_modGate gives⟩
    refine ⟨fun intercept => byte (by simp [intercept]) (Gate.writeByte_intercept _ b ack intercept),
      fun refuse => byte (by simp [refuse]) (Gate.writeByte_refuse _ b ack refuse),
      fun relay other => byte (by simp [relay]) (Gate.writeByte_elsewhere _ b ack relay other), fun relays => ?_⟩
    have undeferred : h.treatment ≠ .defer := by rcases relays with captures | ⟨relay, _⟩ <;> simp [*]
    have module := Gate.writeByte_module c.gate b ack relays
    refine ⟨fun is => byte undeferred (module.trans (Gate.relayByte_beyond _ b ack is)), fun within yes => ?_,
      fun within no => ?_⟩
    · subst yes
      exact byte undeferred (module.trans (Gate.relayByte_taken _ b within))
    · subst no
      exact byte undeferred (module.trans (Gate.relayByte_refused _ b within))

/-! ## The bytes of a read -/

section
variable (g : Gate) {h : InHand} (b : Byte) (ack : Bool)

section
variable (relay : h.treatment = .relay)
include relay

/-- A byte that the module supplies moves both pointers (R150, R152). -/
theorem Gate.readByte_supplied (own : h.toModule = true) (goesOn : h.nacked = false) :
    g.readByte h b ack = g.byteTaken.waits { h.counted with nacked := !ack } (.byte b) := by
  simp only [Gate.readByte, relay, own, goesOn, Bool.false_eq_true, if_true, if_false]
  rfl

/-- The controller's NACK has ended the read (R150). -/
theorem Gate.readByte_ended (own : h.toModule = true) (ended : h.nacked = true) :
    g.readByte h b ack = g.waits h.counted (.byte 0xFF) := by
  simp only [Gate.readByte, relay, own, ended, if_true]
  rfl

/-- A byte from another address is passed up (R144). -/
theorem Gate.readByte_elsewhere (other : h.toModule = false) : g.readByte h b ack = g.waits h.counted (.byte b) := by
  simp only [Gate.readByte, relay, other, Bool.false_eq_true, if_false]
  rfl

end

theorem Gate.readByte_refuse (refuse : h.treatment = .refuse) :
    g.readByte h b ack = g.waits h.counted (.byte 0xFF) := by
  simp only [Gate.readByte, refuse]
  rfl

/-- A byte of a read that is not served, or that the controller has ended (R170). -/
theorem Gate.slotByte_unserved (slot : ReadSlot) (ends : h.served = false ∨ h.nacked = true) :
    g.slotByte h slot ack = g.waits h.counted (.byte 0xFF) := by
  have unserved : (h.served && !h.nacked) = false := by rcases ends with unserved | ended <;> simp [*]
  simp only [Gate.slotByte, unserved, Bool.false_eq_true, if_false]
  rfl

variable (served : h.served = true) (goesOn : h.nacked = false)
include served goesOn

/-- A byte that the gate supplies from the slot moves the controller pointer (R170). -/
theorem Gate.slotByte_ready (l : Cursor) (data : List Byte) : g.slotByte h (.ready l data) ack =
    { g.waits { h.counted with nacked := !ack } (.byte (data[h.upperBytes]?.getD 0xFF)) with
      ctrl := { g.ctrl with pointer := advance g.ctrl.pointer } } := by
  simp only [Gate.slotByte, served, goesOn, Bool.not_false, Bool.and_true, if_true, List.getD_eq_getElem?_getD]
  rfl

/-- The slot has gone: nobody drives the line (R170). -/
theorem Gate.slotByte_gone {slot : ReadSlot} (gone : ∀ (l : Cursor) (data : List Byte), slot ≠ .ready l data) :
    g.slotByte h slot ack = { g.waits { h.counted with nacked := !ack } (.byte 0xFF) with
      ctrl := { g.ctrl with pointer := advance g.ctrl.pointer } } := by
  cases slot with
  | ready l data => exact absurd rfl (gone l data)
  | free =>
    simp only [Gate.slotByte, served, goesOn, Bool.not_false, Bool.and_true, if_true]
    rfl
  | pending l f =>
    simp only [Gate.slotByte, served, goesOn, Bool.not_false, Bool.and_true, if_true]
    rfl

end

/-- Settles O42: the gates by `Gate.readByte` and `Gate.slotByte`. -/
theorem readBytesMoveCursors : Obligations.ReadBytesMoveCursors := by
  unfold Obligations.ReadBytesMoveCursors
  intro k ack s c becomes
  refine ⟨fun released hunts => ⟨fun b => exec_inHunt released hunts rfl, exec_inHunt released hunts rfl⟩, ?_⟩
  intro h takes n last
  refine ⟨fun b reads => ?relayed, fun held => ?slot⟩
  case relayed =>
    have byte {g : Gate} (gives : c.gate.readByte h b ack = g) : becomes (.readDataByte k b ack) g :=
      ⟨_, exec_readDataByte takes b ack reads, cageBecomes_modGate gives⟩
    exact ⟨fun relay own goesOn => byte (Gate.readByte_supplied _ b ack relay own goesOn),
      fun relay own ended => byte (Gate.readByte_ended _ b ack relay own ended),
      fun relay other => byte (Gate.readByte_elsewhere _ b ack relay other),
      fun refuse => byte (Gate.readByte_refuse _ b ack refuse)⟩
  case slot =>
    have byte {g : Gate} (gives : c.gate.slotByte h c.buffers.slot ack = g) : becomes (.slotReadByte k ack) g :=
      ⟨_, exec_slotReadByte takes ack held, cageBecomes_modGate gives⟩
    refine ⟨fun ends => byte (Gate.slotByte_unserved _ ack _ ends), ?_⟩
    intro served goesOn moves
    exact ⟨fun l data ready => byte (by rw [ready]; exact Gate.slotByte_ready _ ack served goesOn l data),
      fun gone => byte (Gate.slotByte_gone _ ack served goesOn gone)⟩

end Sys2Proof.Machine
end

section
/-! SUPPORT. The end of the transaction in hand at a stop, a repeated start or a stall: what is accounted by its treatment
(R148, R149, R151, R152, R154, R155, R165–R168, R170). -/

namespace Sys2Proof.Machine

/-! ## Frames -/

theorem cageBecomes.cage {k : CageId} {c : Cage} {s t : State} (h : cageBecomes k c s t) : t.cage k = c := h.1

theorem cageBecomes.uptime {k : CageId} {c : Cage} {s t : State} (h : cageBecomes k c s t) :
    t.log.uptime = s.log.uptime := by
  obtain ⟨_, _, _, _, _, _, log, _⟩ := h
  rw [log]

/-- A fault logged over a change of one cage (R197). -/
theorem cageBecomes.takeFault {k : CageId} {c : Cage} {s t : State} (h : cageBecomes k c s t) (e : FaultEntry) :
    cageBecomes k c (s.takeFault e) (t.takeFault e) := by
  obtain ⟨cage, others, channels, staged, power, store, log, loader, notice, pendingTiming, lineReset, pending⟩ := h
  exact ⟨cage, others, channels, staged, power, store, by rw [State.takeFault_log, log, State.takeFault_log], loader,
    by rw [State.takeFault_notice, notice, State.takeFault_notice], pendingTiming, lineReset, pending⟩

/-- A change of the gate after a change of its cage. -/
theorem cageBecomes.modGate {k : CageId} {c : Cage} {s t : State} (h : cageBecomes k c s t) {f : Gate → Gate} {g : Gate}
    (changes : f c.gate = g) : cageBecomes k { c with gate := g } s (t.modGate k f) := by
  obtain rfl := h.cage
  exact cageBecomes_trans h (cageBecomes_modGate changes)

theorem State.capture_gate (s : State) (k : CageId) (sheet offset : Byte) (data : List Byte) :
    ((s.capture k sheet offset data).cage k).gate = (s.cage k).gate := by
  obtain ⟨⟨_, captured⟩, _⟩ := CaptureFrame.capture s k sheet offset data
  rw [captured]

theorem State.capture_seq (s : State) (k : CageId) (sheet offset : Byte) (data : List Byte) :
    ((s.capture k sheet offset data).cage k).seq = (s.cage k).seq := by
  obtain ⟨⟨_, captured⟩, _⟩ := CaptureFrame.capture s k sheet offset data
  rw [captured]

theorem State.capture_uptime (s : State) (k : CageId) (sheet offset : Byte) (data : List Byte) :
    (s.capture k sheet offset data).log.uptime = s.log.uptime := (Keeps.refl k s).capture.uptime

/-! ## What is accounted -/

/-- The part once the transaction in hand is accounted by its treatment, the gate not yet having let go of it. -/
def State.accounted (s : State) (k : CageId) (h : InHand) : State :=
  match h.treatment with
  | .relayCapture => (s.modGate k Gate.applySelect).handOver k h
  | .relay => s.modGate k Gate.applySelect
  | .defer => s.endDefer k h
  | .readSlot => s.endSlotRead k h
  | .refuse => s.modGate k fun g => { g with ctrl := { g.ctrl with sheet := h.sheetSelect.getD g.ctrl.sheet } }
  | .intercept => s
  | .undecided => s

/-- A transaction that owes no sheet select leaves the controller cursor (R165). -/
theorem State.modGate_unowed (s : State) (k : CageId) : (s.modGate k fun g =>
    { g with ctrl := { g.ctrl with sheet := (none : Option Byte).getD g.ctrl.sheet } }) = s := State.modCage_id s k _ rfl

/-- The treatments whose end a channel may wait for (R168, R173). -/
def Treatment.resumes : Treatment → Bool
  | .defer => true
  | .readSlot => true
  | .refuse => true
  | _ => false

/-- A gate whose noted sheet select is applied and noted no longer (R152). -/
def Gate.selected (g : Gate) (h : InHand) : Gate :=
  { g.selects h with inHand := some { h with sheetSelect := none } }

/-- The gate with its cursor after a DEFER write of which `n` bytes were placed (R13, R167). -/
def Gate.deferred (g : Gate) (h : InHand) (o : Byte) (n : Nat) : Gate :=
  { g with ctrl := { sheet := h.sheetSelect.getD g.ctrl.sheet, pointer := advanceN o n } }

/-- The buffers once a queued DEFER write has ended: its entry COMPLETE, or gone where it has no data (R167). -/
def Buffers.completed (b : Buffers) : Buffers := { b with queue := b.queue.filterMap fun x =>
  if x.filling then (if x.data = [] then none else some { x with filling := false }) else some x }

section
variable {s : State} {k : CageId} {h : InHand}

theorem State.applySelect_becomes (hand : (s.cage k).gate.inHand = some h) :
    cageBecomes k { s.cage k with gate := (s.cage k).gate.selected h } s (s.modGate k Gate.applySelect) :=
  cageBecomes_modGate (Gate.applySelect_selects hand)

/-- A relayed write with capture is handed to the journal (R27, R148). -/
theorem State.accounted_relayCapture (captures : h.treatment = .relayCapture) {o : Byte} (offset : h.offset = some o) :
    s.accounted k h = (s.modGate k Gate.applySelect).capture k h.refSheet o h.data := by
  simp only [State.accounted, State.handOver, captures, offset]

theorem State.accounted_relay (hand : (s.cage k).gate.inHand = some h) (relays : h.treatment = .relay) :
    cageBecomes k { s.cage k with gate := (s.cage k).gate.selected h } s (s.accounted k h) := by
  simp only [State.accounted, relays]
  exact State.applySelect_becomes hand

/-- A refused write applies the sheet it may owe to the controller cursor (R165). -/
theorem State.accounted_refuse (refuses : h.treatment = .refuse) : cageBecomes k { s.cage k with gate :=
    { (s.cage k).gate with ctrl := { (s.cage k).gate.ctrl with
      sheet := h.sheetSelect.getD (s.cage k).gate.ctrl.sheet } } } s (s.accounted k h) := by
  simp only [State.accounted, refuses]
  exact cageBecomes_modGate rfl

/-- A served read frees the slot (R170). -/
theorem State.accounted_readSlot (held : h.treatment = .readSlot) : cageBecomes k { s.cage k with buffers :=
    if h.served then { (s.cage k).buffers with slot := .free, discard := none } else (s.cage k).buffers } s
      (s.accounted k h) := by
  simp only [State.accounted, State.endSlotRead, held]
  cases h.served with
  | true =>
    simp only [if_true]
    exact cageBecomes_modCage rfl
  | false => exact cageBecomes_self rfl

section
variable (defers : h.treatment = .defer) {o : Byte} (offset : h.offset = some o)
include defers offset

/-- The entry of a queued DEFER write becomes COMPLETE, or leaves where it has no data (R167). -/
theorem State.accounted_queued (queued : h.place = .queued) {e : DeferEntry}
    (filling : (s.cage k).buffers.filling? = some e) : cageBecomes k { s.cage k with
      gate := (s.cage k).gate.deferred h o e.data.length
      buffers := (s.cage k).buffers.completed } s (s.accounted k h) := by
  have entry : (s.cage k).deferEntry? h = some e := by simp only [Cage.deferEntry?, queued, filling]
  simp only [State.accounted, State.endDefer, defers, offset, queued, entry]
  unfold State.modBuffers State.modGate
  rw [State.modCage_modCage]
  exact cageBecomes_modCage rfl

/-- A DEFER write that met a CLOSED queue is a pointer write (R163, R167). -/
theorem State.accounted_closed (closed : h.place = .closed) :
    cageBecomes k { s.cage k with gate := (s.cage k).gate.deferred h o 0 } s (s.accounted k h) := by
  have entry : (s.cage k).deferEntry? h = none := by simp only [Cage.deferEntry?, closed]
  simp only [State.accounted, State.endDefer, defers, offset, closed, entry]
  exact cageBecomes_modGate rfl

variable {e : DeferEntry} (detached : h.place = .detached e)
include detached

/-- A DEFER write without data that the gate alone holds is a pointer write (R167, R168). -/
theorem State.accounted_detachedEmpty (empty : e.data = []) :
    cageBecomes k { s.cage k with gate := (s.cage k).gate.deferred h o 0 } s (s.accounted k h) := by
  have entry : (s.cage k).deferEntry? h = some e := by simp only [Cage.deferEntry?, detached]
  simp only [State.accounted, State.endDefer, defers, offset, detached, entry, empty, if_true]
  exact cageBecomes_modGate rfl

/-- A DEFER write with data that the gate alone holds is handed to the journal (R168). -/
theorem State.accounted_detached (data : e.data ≠ []) : s.accounted k h =
    (s.modGate k fun g => g.deferred h o e.data.length).capture k e.sheet e.offset e.data := by
  have entry : (s.cage k).deferEntry? h = some e := by simp only [Cage.deferEntry?, detached]
  simp only [State.accounted, State.endDefer, defers, offset, detached, entry, if_neg data]
  rfl

end

end

/-! ## The stop and the repeated start -/

/-- Where the cage port stands once the gate has let go of its transaction: a repeated start holds one in use (R151). -/
def Gate.portLeft (g : Gate) (again : Bool) : PortState :=
  if again = true ∧ g.relay = .relaying ∧ g.port = .busy then .repeated else .free

/-- The gate lets go of its transaction (R141, R151). -/
def State.closed (s : State) (k : CageId) (again : Bool) : State := s.modGate k fun g => g.ended .idle again

theorem cageBecomes.closed {k : CageId} {c : Cage} {s u : State} (becomes : cageBecomes k c s u) (again : Bool) {g : Gate}
    (relay : c.gate.relay = g.relay) (port : c.gate.port = g.port) :
    cageBecomes k { c with gate := c.gate.lets .idle (g.portLeft again) } s (u.closed k again) :=
  becomes.modGate (Gate.ended_lets _ again _ _ relay port)

/-- The gate lets go of a transaction that is handed to the journal on the way (R27, R148). -/
theorem cageBecomes.capture_closed {k : CageId} {c : Cage} {s v : State} (becomes : cageBecomes k c s v)
    (sheet offset : Byte) (data : List Byte) (again : Bool) {g : Gate} (relay : c.gate.relay = g.relay)
    (port : c.gate.port = g.port) : let w := v.capture k sheet offset data
    cageBecomes k { w.cage k with gate := c.gate.lets .idle (g.portLeft again) } w (w.closed k again) := by
  intro w
  have gate : (w.cage k).gate = c.gate :=
    (v.capture_gate k sheet offset data).trans (congrArg Cage.gate becomes.cage)
  have lets := (cageBecomes_self (s := w) rfl).closed again (g := g) (by rw [gate, relay]) (by rw [gate, port])
  rw [gate] at lets
  exact lets

section
variable {s : State} {k : CageId} {h : InHand} (again : Bool)

/-- What the end of a transaction that is not an intercepted write makes of the part. -/
theorem State.endTransaction_accounted (other : h.treatment ≠ .intercept) : s.endTransaction k h again =
    if h.treatment.resumes then ((s.accounted k h).closed k again).resumeChannel k
    else (s.accounted k h).closed k again := by
  unfold State.endTransaction State.accounted
  cases treatment : h.treatment with
  | intercept => exact absurd treatment other
  | refuse =>
    dsimp only
    cases h.sheetSelect with
    | none =>
      rw [State.modGate_unowed]
      rfl
    | some v => rfl
  | _ => rfl

theorem State.endTransaction_withoutDirective (intercepts : h.treatment = .intercept) (empty : h.data = []) :
    s.endTransaction k h again = s.closed k again := by
  simp only [State.endTransaction, InHand.directive?, intercepts, empty]
  rfl

/-- The directive of an intercepted write arrives once the gate has let go of it (R149). -/
theorem State.endTransaction_directive (intercepts : h.treatment = .intercept) {code : Byte} {rest : List Byte}
    (data : h.data = code :: rest) :
    s.endTransaction k h again = (s.closed k again).arrive k { code := code, arg := rest.head? } := by
  simp only [State.endTransaction, InHand.directive?, intercepts, data]
  rfl

end

/-! ## The commands -/

/-- A transaction that the controller may end: UCL is not held (R94, R157). -/
theorem Gate.endable?_of {g : Gate} {h : InHand} (hand : g.inHand = some h) (stretches : g.stretching = false)
    (unchecked : g.stuckForSeq = false) : g.endable? = some h := by
  simp [Gate.endable?, hand, stretches, unchecked]

section
variable {s : State} {k : CageId} (released : s.lineReset = false)
include released

theorem exec_upperStop_hunt (hunts : (s.cage k).gate.relay = .hunt) : exec (.upperStop k) s = .next (s.endHunt k) := by
  simp only [exec, execUpperStop, released, hunts, Bool.false_eq_true, if_false, if_true]

variable {h : InHand} (quiet : (s.cage k).gate.relay ≠ .hunt) (ends : (s.cage k).gate.endable? = some h)
include quiet ends

theorem exec_upperStop : exec (.upperStop k) s = .next ((s.endTransaction k h false).resumeSeq k) := by
  simp only [exec, execUpperStop, released, quiet, ends, Bool.false_eq_true, if_false]

theorem exec_upperRepeatedStart (serves : s.resetLoading = false) : exec (.upperRepeatedStart k) s =
    .next ((s.endTransaction k h true).modGate k fun g => g.opens false) := by
  have opens : (fun g : Gate => g.openTransaction s.resetLoading) = fun g => g.opens false := by
    rw [serves]
    exact funext Gate.openTransaction_serves
  have loading : (s.endTransaction k h true).resetLoading = false :=
    (Keeps.refl k s).endTransaction.resetLoading.trans serves
  show Host.Outcome.next (s.upper k .none _) = _
  rw [State.upper_done released quiet, ends, opens]
  exact congrArg Host.Outcome.next (State.quietStall_inService _ k loading)

end

/-- A gate in HUNT whose bus is free is IDLE, and a transaction of the sequencer that waited is looked at (R156, R157). -/
theorem State.endHunt_becomes (s : State) (k : CageId) :
    cageBecomes k { s.cage k with gate := (s.cage k).gate.lets .idle .free }.resumed s (s.endHunt k) := by
  have lets : cageBecomes k { s.cage k with gate := (s.cage k).gate.lets .idle .free } s
      (s.modGate k fun g => g.ended .idle false) := cageBecomes_modGate rfl
  have resumes := State.resumeSeq_frame (s.modGate k fun g => g.ended .idle false) k
  rw [lets.cage] at resumes
  exact cageBecomes_trans lets resumes

end Sys2Proof.Machine
end

section
/-! SUPPORT. UPPER_STOP and UPPER_REPEATED_START, and the proof of O43. -/

namespace Sys2Proof.Machine

/-- Settles O43: what is accounted by `State.accounted`, and the gate lets go by `State.closed`. -/
theorem endHandledByTreatment : Obligations.EndHandledByTreatment := by
  unfold Obligations.EndHandledByTreatment
  refine ⟨?hunt, ?ends⟩
  case hunt =>
    intro k s c released hunts
    exact ⟨⟨_, exec_upperStop_hunt released hunts, s.endHunt_becomes k⟩, exec_inHunt released hunts rfl⟩
  case ends =>
    intro k h again s c released serves quiet hand stretches unchecked u d
    have ends := Gate.endable?_of hand stretches unchecked
    refine ⟨fun stop => ?stop, fun repeated => ?repeated, ?_⟩
    case stop =>
      subst stop
      exact ⟨_, exec_upperStop released quiet ends, State.resumeSeq_frame u k⟩
    case repeated =>
      subst repeated
      exact ⟨_, exec_upperRepeatedStart released quiet ends serves, cageBecomes_modGate rfl⟩
    intro ended moves resumes
    have stays {t : Treatment} (treatment : h.treatment = t) (kind : t ≠ .intercept ∧ t.resumes = false) :
        u = (s.accounted k h).closed k again := by
      subst treatment
      exact (State.endTransaction_accounted again kind.1).trans (if_neg (by simp [kind.2]))
    have waits {t : Treatment} (treatment : h.treatment = t) (kind : t ≠ .intercept ∧ t.resumes = true) :
        u = ((s.accounted k h).closed k again).resumeChannel k := by
      subst treatment
      exact (State.endTransaction_accounted again kind.1).trans (if_pos kind.2)
    have untouched : cageBecomes k { c with gate := ended c.gate } s (s.closed k again) :=
      (cageBecomes_self rfl).closed again rfl rfl
    refine ⟨fun relays => ?relay, fun o captures offset => ?capture, fun undecided => ?undecided,
      fun refuses unowed => ?refuse, fun n refuses owed => ?owed, fun intercepts empty => ?pointer,
      fun code rest intercepts data => ?directive, fun o e defers offset queued filling => ?queued,
      fun o defers offset closed => ?closed, fun o e defers offset detached empty => ?empty,
      fun o e defers offset detached data => ?detached, fun held => ?slot⟩
    case relay =>
      rw [stays relays (by decide)]
      exact (State.accounted_relay hand relays).closed again rfl rfl
    case capture =>
      have selected := State.applySelect_becomes hand
      refine ⟨_, selected, ?_⟩
      rw [stays captures (by decide), State.accounted_relayCapture captures offset]
      exact selected.capture_closed h.refSheet o h.data again rfl rfl
    case undecided =>
      rw [stays undecided (by decide)]
      simp only [State.accounted, undecided]
      exact untouched
    case refuse =>
      have owes := State.accounted_refuse (s := s) (k := k) refuses
      rw [unowed] at owes
      exact ⟨_, owes.closed again rfl rfl, waits refuses (by decide)⟩
    case owed =>
      have owes := State.accounted_refuse (s := s) (k := k) refuses
      rw [owed] at owes
      exact ⟨_, owes.closed again rfl rfl, waits refuses (by decide)⟩
    case pointer =>
      rw [show u = _ from State.endTransaction_withoutDirective again intercepts empty]
      exact untouched
    case directive =>
      exact ⟨_, untouched, State.endTransaction_directive again intercepts data⟩
    case queued =>
      exact ⟨_, (State.accounted_queued defers offset queued filling).closed again rfl rfl, waits defers (by decide)⟩
    case closed =>
      exact ⟨_, (State.accounted_closed defers offset closed).closed again rfl rfl, waits defers (by decide)⟩
    case empty =>
      exact ⟨_, (State.accounted_detachedEmpty defers offset detached empty).closed again rfl rfl,
        waits defers (by decide)⟩
    case detached =>
      have moved : cageBecomes k { c with gate := moves o e.data.length } s
          (s.modGate k fun g => g.deferred h o e.data.length) := cageBecomes_modGate rfl
      refine ⟨_, _, moved, moved.capture_closed e.sheet e.offset e.data again rfl rfl, ?_⟩
      rw [waits defers (by decide), State.accounted_detached defers offset detached data]
    case slot =>
      exact ⟨_, (State.accounted_readSlot held).closed again rfl rfl, waits held (by decide)⟩

end Sys2Proof.Machine
end

section
/-! SUPPORT. UPSTREAM_STALL and BUS_FREE_INTERVAL: the stall action and HUNT (R94, R154–R156), and the proof of O44. -/

namespace Sys2Proof.Machine

/-! ## The fault of a stall and HUNT -/

/-- The fault of a stall (R154, R155). -/
def State.stallFault (s : State) (k : CageId) (h : InHand) : FaultEntry :=
  { kind := .upstreamStall, cage := some k, state := some (s.cage k).seq.shown, uptime := s.log.uptime,
    detail1 := BitVec.ofNat 16 (h.addressByte.elim 255 BitVec.toNat)
    detail2 := BitVec.ofNat 16 (h.addressByte.elim 0 fun _ => h.upperBytes) }

/-- A gate that has let go of its transaction for HUNT (R156). -/
def Gate.hunts (g : Gate) : Gate := { g.lets .hunt .free with stallUse := .busFree }

/-- The fault of a stall logged and the gate in HUNT (R155, R156). -/
def State.hunting (s : State) (k : CageId) (h : InHand) : State := (s.logStall k h).modGate k Gate.hunt

theorem State.hunting_becomes {s u : State} {k : CageId} {c : Cage} (becomes : cageBecomes k c s u) (h : InHand)
    (shown : c.seq.shown = (s.cage k).seq.shown) :
    cageBecomes k { c with gate := c.gate.hunts } (s.takeFault (s.stallFault k h)) (u.hunting k h) := by
  have fault : u.stallFault k h = s.stallFault k h := by
    simp only [State.stallFault, becomes.cage, becomes.uptime, shown]
  have logs : u.logStall k h = u.takeFault (s.stallFault k h) := by
    rw [State.logStall_eq, ← fault]
    rfl
  rw [State.hunting, logs]
  exact (becomes.takeFault _).modGate rfl

/-- A capture changes nothing that the fault of a stall shows (R27–R41). -/
theorem State.capture_stallFault (s : State) (k : CageId) (sheet offset : Byte) (data : List Byte) (h : InHand) :
    (s.capture k sheet offset data).stallFault k h = s.stallFault k h := by
  simp only [State.stallFault, State.capture_seq, State.capture_uptime]

/-- A stall whose transaction is handed to the journal on the way (R154). -/
theorem cageBecomes.capture_hunting {k : CageId} {c : Cage} {s v : State} (becomes : cageBecomes k c s v)
    (sheet offset : Byte) (data : List Byte) (h : InHand) (shown : c.seq.shown = (s.cage k).seq.shown) :
    let w := v.capture k sheet offset data
    cageBecomes k { w.cage k with gate := c.gate.hunts } (w.takeFault (s.stallFault k h)) (w.hunting k h) := by
  intro w
  have gate : (w.cage k).gate = c.gate :=
    (v.capture_gate k sheet offset data).trans (congrArg Cage.gate becomes.cage)
  have fault : w.stallFault k h = s.stallFault k h := by
    rw [State.capture_stallFault]
    simp only [State.stallFault, becomes.cage, becomes.uptime, shown]
  have hunts := State.hunting_becomes (k := k) (cageBecomes_self (s := w) rfl) h rfl
  rw [gate, fault] at hunts
  exact hunts

/-! ## The stall action -/

section
variable {s : State} {k : CageId} {h : InHand}

/-- A stall of any treatment but RELAY (R154, R155). -/
theorem State.stall_accounted (inRead : Bool) (other : h.treatment ≠ .relay) : s.stall k h inRead =
    if h.treatment.resumes then ((s.accounted k h).hunting k h).resumeChannel k
    else (s.accounted k h).hunting k h := by
  unfold State.stall State.accounted
  cases treatment : h.treatment with
  | relay => exact absurd treatment other
  | refuse =>
    dsimp only
    cases h.sheetSelect with
    | none =>
      rw [State.modGate_unowed]
      rfl
    | some v => rfl
  | _ => rfl

/-- A byte in progress of a relayed read of the module counts as supplied where the gate is in RELAYING (R154). -/
def Gate.supplies (g : Gate) (h : InHand) (inRead : Bool) : Prop :=
  inRead = true ∧ h.toModule = true ∧ h.offset = none ∧ h.nacked = false ∧ g.relay = .relaying

theorem Gate.supplies_iff (g : Gate) (h : InHand) (inRead : Bool) :
    (inRead && h.toModule && h.offset.isNone && !h.nacked && g.relay == .relaying) = true ↔ g.supplies h inRead := by
  simp [Gate.supplies, and_assoc]

theorem State.stall_supplied {inRead : Bool} (relays : h.treatment = .relay)
    (supplies : (s.cage k).gate.supplies h inRead) : s.stall k h inRead = (s.modGate k Gate.byteTaken).hunting k h := by
  have taken : (s.modGate k fun g => if inRead && h.toModule && h.offset.isNone && !h.nacked && g.relay == .relaying
      then g.byteTaken else g.applySelect) = s.modGate k Gate.byteTaken := by
    refine State.modCage_congr s k _ _ ?_
    dsimp only
    rw [if_pos ((Gate.supplies_iff _ h inRead).2 supplies)]
  simp only [State.stall, relays, taken]
  rfl

theorem State.stall_unsupplied {inRead : Bool} (relays : h.treatment = .relay)
    (idle : ¬(s.cage k).gate.supplies h inRead) : s.stall k h inRead = (s.accounted k h).hunting k h := by
  have selects : (s.modGate k fun g => if inRead && h.toModule && h.offset.isNone && !h.nacked && g.relay == .relaying
      then g.byteTaken else g.applySelect) = s.modGate k Gate.applySelect := by
    refine State.modCage_congr s k _ _ ?_
    dsimp only
    rw [if_neg (mt (Gate.supplies_iff _ h inRead).1 idle)]
  simp only [State.stall, State.accounted, relays, selects]
  rfl

end

/-! ## The commands -/

theorem Gate.stallExpires_iff (g : Gate) (waited : Nat) : g.stallExpires waited = true ↔
    (g.stallUse = .upstream ∨ g.stallUse = .stopped) ∧ g.active.stall ≤ max g.stallElapsed waited := by
  simp only [Gate.stallExpires, Bool.and_eq_true, Bool.or_eq_true, beq_iff_eq, decide_eq_true_eq]

section
variable {s : State} {k : CageId} (inRead : Bool) {waited : Nat}

theorem exec_upstreamStall {h : InHand} (ends : (s.cage k).gate.endable? = some h) (serves : s.resetLoading = false)
    (expires : (s.cage k).gate.stallExpires waited = true) :
    exec (.upstreamStall k inRead waited) s = .next (s.stall k h (inRead && h.reads)) := by
  simp only [exec, execUpstreamStall, ends, serves, expires, Bool.not_false, Bool.and_self, if_true]

/-- Without a transaction in hand, in a reset load, or below the limit no stall occurs (R94, R143). -/
theorem exec_upstreamStall_passes (passes : (s.cage k).gate.inHand = none ∨ s.resetLoading = true ∨
    ¬(s.cage k).gate.stallExpires waited = true) : exec (.upstreamStall k inRead waited) s = .next s := by
  simp only [exec, execUpstreamStall]
  split
  · rename_i h ends
    refine if_neg fun stalls => ?_
    rw [Bool.and_eq_true] at stalls
    rcases passes with free | loading | below
    · simp [Gate.endable?, free] at ends
    · simp [loading] at stalls
    · exact below stalls.2
  · rfl

end

section
variable {s : State} {k : CageId} {free : Nat}

theorem exec_busFreeInterval_ends (hunts : (s.cage k).gate.relay = .hunt) (reached : (s.cage k).gate.active.stall ≤ free) :
    exec (.busFreeInterval k free) s = .next (s.endHunt k) := by
  simp only [exec, execBusFreeInterval, hunts, reached, if_true]

theorem exec_busFreeInterval_measures (hunts : (s.cage k).gate.relay = .hunt)
    (below : free < (s.cage k).gate.active.stall) : exec (.busFreeInterval k free) s =
      .next (s.modGate k fun g => { g with stallElapsed := free }) := by
  simp only [exec, execBusFreeInterval, hunts, Nat.not_le.2 below, if_true, if_false]

theorem exec_busFreeInterval_passes (quiet : (s.cage k).gate.relay ≠ .hunt) :
    exec (.busFreeInterval k free) s = .next s := by
  simp only [exec, execBusFreeInterval, quiet, if_false]

end

/-- Settles O44: what is accounted by `State.accounted`, the fault and HUNT by `State.hunting`. -/
theorem stallEntersHunt : Obligations.StallEntersHunt := by
  unfold Obligations.StallEntersHunt
  intro k waited s c counts reached
  refine ⟨?stall, fun inRead passes => ?passes, fun free => ⟨fun hunts limit => ?ends, fun hunts below => ?measures,
    exec_busFreeInterval_passes⟩⟩
  case passes =>
    refine exec_upstreamStall_passes inRead (passes.imp_right (Or.imp_right fun still => ?_))
    rw [Gate.stallExpires_iff]
    exact not_and_or.2 still
  case ends => exact ⟨_, exec_busFreeInterval_ends hunts limit, s.endHunt_becomes k⟩
  case measures => exact ⟨_, exec_busFreeInterval_measures hunts below, cageBecomes_modGate rfl⟩
  intro h inRead serves hand stretches unchecked counting limit e hunt moves supplied
  refine ⟨_, exec_upstreamStall inRead (Gate.endable?_of hand stretches unchecked) serves
    ((Gate.stallExpires_iff _ _).2 ⟨counting, limit⟩), ?_⟩
  intro resumes
  have stays {t : Treatment} (treatment : h.treatment = t) (kind : t ≠ .relay ∧ t.resumes = false) :
      s.stall k h (inRead && h.reads) = (s.accounted k h).hunting k h := by
    subst treatment
    exact (State.stall_accounted _ kind.1).trans (if_neg (by simp [kind.2]))
  have waits {t : Treatment} (treatment : h.treatment = t) (kind : t ≠ .relay ∧ t.resumes = true) :
      s.stall k h (inRead && h.reads) = ((s.accounted k h).hunting k h).resumeChannel k := by
    subst treatment
    exact (State.stall_accounted _ kind.1).trans (if_pos kind.2)
  have supplies : c.gate.supplies h (inRead && h.reads) ↔ supplied := by
    simp only [Gate.supplies, Bool.and_eq_true, and_assoc, supplied]
  refine ⟨fun relays => ⟨fun yes => ?supplied, fun no => ?relay⟩, fun o captures offset => ?capture,
    fun quiet => ?untouched, fun refuses unowed => ?refuse, fun n refuses owed => ?owed,
    fun o x defers offset queued filling => ?queued, fun o defers offset closed => ?closed,
    fun o x defers offset detached empty => ?empty, fun o x defers offset detached data => ?detached,
    fun held => ?slot⟩
  case supplied =>
    rw [State.stall_supplied relays (supplies.2 yes)]
    exact State.hunting_becomes (cageBecomes_modGate rfl) h rfl
  case relay =>
    rw [State.stall_unsupplied relays (mt supplies.1 no)]
    exact State.hunting_becomes (State.accounted_relay hand relays) h rfl
  case capture =>
    have selected := State.applySelect_becomes hand
    refine ⟨_, selected, ?_⟩
    rw [stays captures (by decide), State.accounted_relayCapture captures offset]
    exact selected.capture_hunting h.refSheet o h.data h rfl
  case untouched =>
    have accounts : s.accounted k h = s := by rcases quiet with is | is <;> simp only [State.accounted, is]
    have stall : s.stall k h (inRead && h.reads) = s.hunting k h := by
      rcases quiet with is | is <;> rw [stays is (by decide), accounts]
    rw [stall]
    exact State.hunting_becomes (cageBecomes_self rfl) h rfl
  case refuse =>
    have owes := State.accounted_refuse (s := s) (k := k) refuses
    rw [unowed] at owes
    exact ⟨_, State.hunting_becomes owes h rfl, waits refuses (by decide)⟩
  case owed =>
    have owes := State.accounted_refuse (s := s) (k := k) refuses
    rw [owed] at owes
    exact ⟨_, State.hunting_becomes owes h rfl, waits refuses (by decide)⟩
  case queued =>
    exact ⟨_, State.hunting_becomes (State.accounted_queued defers offset queued filling) h rfl, waits defers (by decide)⟩
  case closed =>
    exact ⟨_, State.hunting_becomes (State.accounted_closed defers offset closed) h rfl, waits defers (by decide)⟩
  case empty =>
    exact ⟨_, State.hunting_becomes (State.accounted_detachedEmpty defers offset detached empty) h rfl,
      waits defers (by decide)⟩
  case detached =>
    have moved : cageBecomes k { c with gate := moves o x.data.length } s
        (s.modGate k fun g => g.deferred h o x.data.length) := cageBecomes_modGate rfl
    let w := (s.modGate k fun g => g.deferred h o x.data.length).capture k x.sheet x.offset x.data
    have shown : (w.cage k).seq = c.seq := by rw [State.capture_seq, moved.cage]
    have fault : ({ e with state := some (w.cage k).seq.shown } : FaultEntry) = s.stallFault k h := by
      rw [shown]
      rfl
    refine ⟨_, w.hunting k h, moved, ?_, ?_⟩
    · dsimp only
      rw [fault]
      exact moved.capture_hunting x.sheet x.offset x.data h rfl
    · rw [waits defers (by decide), State.accounted_detached defers offset detached data]
  case slot =>
    exact ⟨_, State.hunting_becomes (State.accounted_readSlot held) h rfl, waits held (by decide)⟩

end Sys2Proof.Machine
end

section
/-! SUPPORT. The check of CDA and the hold of CCL at the gate (R72, R157–R160), and the proof of O45. -/

namespace Sys2Proof.Machine

/-! ## The commands, while the gate itself has a check of CDA or a relay -/

section
variable {s : State} {k : CageId}

section
variable (checks : (s.cage k).gate.stallUse = .stuck) (unclear : (s.cage k).gate.clearing = false)
include checks unclear

theorem exec_cdaReleased_gate : exec (.cdaReleased k) s = .next (s.gateStart k) := by
  simp [exec, execCdaReleased, checks, unclear]

theorem exec_stuckDetectionExpiry_gate : exec (.stuckDetectionExpiry k) s = .next (s.modGate k Gate.beginClear) := by
  simp [exec, execStuckDetectionExpiry, checks, unclear]

end

theorem exec_busClearEnd_gate (clears : (s.cage k).gate.clearing = true) (released : Bool) :
    exec (.busClearEnd k released) s = .next (if released then
      ((s.count k Counters.busClear).modGate k Gate.downStop).gateStart k else s.gateStuck k) := by
  cases released <;> simp [exec, execBusClearEnd, clears]

section
variable {h : InHand} (hand : (s.cage k).gate.inHand = some h)
  (relays : (s.cage k).gate.relay = .relaying ∨ (s.cage k).gate.awaitsAnswer = true) {held : Nat} (released : Bool)
include hand relays

/-- A hold of CCL below the stuck detection time is measured, or ends (R160). -/
theorem exec_cclHoldExpiry_below (below : (s.cage k).gate.holdTime held < (s.cage k).gate.active.stuckDetect) :
    exec (.cclHoldExpiry k held released) s = .next (s.modGate k fun g => if released then g.holdEnds
      else { g with stallUse := .hold, stallElapsed := g.holdTime held }) := by
  simp only [exec, execCclHoldExpiry, hand, relays, Nat.not_le.2 below, if_true, if_false]
  cases released <;> rfl

/-- At the stuck detection time the relay is given up (R160). -/
theorem exec_cclHoldExpiry_reached (reached : (s.cage k).gate.active.stuckDetect ≤ (s.cage k).gate.holdTime held) :
    exec (.cclHoldExpiry k held released) s = .next (s.cclHeld k h) := by
  simp only [exec, execCclHoldExpiry, hand, relays, reached, if_true]

end

end

/-! ## The fault and the move to FAULTED -/

/-- BUS-STUCK of a gate: no channel, and the pulses that the bus clear made (R198). -/
def State.stuckFault (s : State) (k : CageId) (pulses : Nat) : FaultEntry :=
  { kind := .busStuck, cage := some k, state := some (s.cage k).seq.shown, uptime := s.log.uptime, detail1 := 255,
    detail2 := BitVec.ofNat 16 pulses }

/-- A cage that BUS-STUCK does not move to FAULTED (R72). -/
def CageState.staysStuck (st : CageState) : Prop := st = .empty ∨ st = .settle ∨ st = .restore

/-- What BUS-STUCK makes of a cage that has left its list or charge, with no directive waiting (R72). -/
def Cage.stuckFaulted (mint : Bool) (c : Cage) : Cage := { c with
  gate := { c.gate with modc := { sheet := none, pointer := none } }
  timer := { c.timer with use := .idle }
  seq := { c.seq with state := .faulted, adoptPending := false, decision := false, ppres := true, pint := mint,
                      attempt := none, due := .none, ret := none, started := false, carried := none } }

/-- A gate with no check of CDA and no bus clear has none for the sequencer. -/
theorem Gate.stuckForSeq_false {g : Gate} (unchecked : g.stallUse ≠ .stuck) (unclear : g.clearing = false) :
    g.stuckForSeq = false := by
  simp [Gate.stuckForSeq, unchecked, unclear]

section
variable {w : State} {k : CageId}

theorem State.busStuckMove_stays (stays : (w.cage k).seq.state.staysStuck) : w.busStuckMove k = w := by
  unfold State.busStuckMove State.stateOf
  rcases stays with state | state | state <;> rw [state]

theorem State.busStuckMove_becomes (moves : ¬(w.cage k).seq.state.staysStuck) (free : (w.cage k).slot = none)
    (unchecked : (w.cage k).gate.stuckForSeq = false) : cageBecomes k
      (((w.unlisted k).cage k).stuckFaulted (w.cage k).mint) (w.unlisted k) (w.busStuckMove k) := by
  obtain ⟨empty, settle, restore⟩ : (w.cage k).seq.state ≠ .empty ∧ (w.cage k).seq.state ≠ .settle ∧
      (w.cage k).seq.state ≠ .restore := by simpa only [CageState.staysStuck, not_or] using moves
  obtain ⟨_, mint, _, _, gate, _, _⟩ := w.unlisted_kept k k
  rw [State.busStuckMove_eq w k empty settle restore free]
  refine cageBecomes_modCage ?_
  simp only [mint, gate, unchecked, Cage.stuckFaulted, Bool.false_eq_true, if_false]

/-- The move of BUS-STUCK from a state `w` whose cage differs from `c` in its journal and its gate at most (R72). -/
theorem State.busStuckMove_from {c : Cage} {g : Gate} (kept : ∃ j : CageRecord, w.cage k = { c with journal := j, gate := g })
    (unchecked : g.stallUse ≠ .stuck) (unclear : g.clearing = false) :
    (c.seq.state.staysStuck → w.busStuckMove k = w) ∧
    (¬c.seq.state.staysStuck → c.slot = none →
      cageBecomes k (((w.unlisted k).cage k).stuckFaulted c.mint) (w.unlisted k) (w.busStuckMove k)) := by
  obtain ⟨j, cage⟩ := kept
  refine ⟨fun stays => State.busStuckMove_stays (by rwa [cage]), fun moves free => ?_⟩
  have becomes := State.busStuckMove_becomes (w := w) (k := k) (by rwa [cage]) (by rwa [cage])
    (by rw [cage]; exact Gate.stuckForSeq_false unchecked unclear)
  rwa [cage] at becomes

end

/-! ## A failed bus clear -/

/-- The gate at the end of a failed bus clear (R159): a relay that waited is refused, else the stall timer has its upstream use
again where a transaction is in hand. -/
theorem State.gateStuck_eq (s : State) (k : CageId) : s.gateStuck k =
    ((s.takeFault (s.stuckFault k (s.cage k).gate.checkSet.clearPulses)).modGate k fun g =>
      if g.stretching then g.refuseStuck else g.endStuck).busStuckMove k := rfl

theorem Gate.refuseStuck_refuses {g : Gate} {h : InHand} (hand : g.inHand = some h) :
    g.refuseStuck = { g.refuses { h with sheetSelect := none, data := [] } with clearing := false } := by
  simp only [Gate.refuseStuck, hand, Gate.refuseRest_nack]

/-! ## A hold of CCL -/

/-- What a hand-over keeps of its cage and of the uptime (R27, R148). -/
theorem State.handOver_kept (s : State) (k : CageId) (h : InHand) :
    (∃ j : CageRecord, (s.handOver k h).cage k = { s.cage k with journal := j }) ∧
    (s.handOver k h).log.uptime = s.log.uptime := by
  refine ⟨?_, (Keeps.refl k s).handOver.uptime⟩
  unfold State.handOver
  split
  · exact (CaptureFrame.capture s k _ _ _).1
  · exact ⟨_, rfl⟩

/-- The relay given up for a held CCL (R160): the hand-over, the fault and the refusal, and then the move. -/
theorem State.cclHeld_eq (s : State) (k : CageId) (h : InHand) : let b := (s.modGate k Gate.applySelect).handOver k h
    s.cclHeld k h = ((b.takeFault (b.stuckFault k 0)).modGate k fun g => g.refuseHeld h).busStuckMove k := by
  intro b
  have shown : (b.modGate k fun g => g.refuseHeld h).stuckFault k 0 = b.stuckFault k 0 := by
    simp only [State.stuckFault, State.modGate_cage_same]
    rfl
  show ((b.modGate k fun g => g.refuseHeld h).takeFault
    ((b.modGate k fun g => g.refuseHeld h).stuckFault k 0)).busStuckMove k = _
  rw [shown]
  rfl

/-- The gate at the end of a hold, in RELAYING and before (R160). -/
theorem Gate.refuseHeld_relaying {g : Gate} (h : InHand) (relaying : g.relay = .relaying) : g.refuseHeld h =
    { g.refuses { h.counted with sheetSelect := none, data := [] } with answer := if h.reads then .cut else .nack } :=
  if_pos relaying

theorem Gate.refuseHeld_waiting {g : Gate} (h : InHand) (waiting : g.relay ≠ .relaying) :
    g.refuseHeld h = g.refuses { h with sheetSelect := none, data := [] } := if_neg waiting

/-- Settles O45: the starts by `State.gateStart_frame`, the failed ends by their fault and `State.busStuckMove_from`. -/
theorem stuckBusAtGate : Obligations.StuckBusAtGate := by
  unfold Obligations.StuckBusAtGate
  intro k s c starts fault stays stuck
  have ends {b w : State} {g : Gate} {pulses : Nat} (kept : ∃ j : CageRecord, ∃ g : Gate,
      b.cage k = { c with journal := j, gate := g }) (unchecked : g.stallUse ≠ .stuck) (unclear : g.clearing = false)
      (logs : cageBecomes k { b.cage k with gate := g } (b.takeFault (b.stuckFault k pulses)) w) :
      stuck g pulses b (w.busStuckMove k) := by
    obtain ⟨j, _, cage⟩ := kept
    have shown : b.stuckFault k pulses = { fault pulses with uptime := b.log.uptime } := by
      rw [State.stuckFault, cage]
    rw [shown] at logs
    exact ⟨w, logs, State.busStuckMove_from ⟨j, by rw [logs.cage, cage]⟩ unchecked unclear⟩
  refine ⟨fun checks unclear => ⟨⟨_, exec_cdaReleased_gate checks unclear, s.gateStart_frame k⟩,
    ⟨_, exec_stuckDetectionExpiry_gate checks unclear, cageBecomes_modGate rfl⟩⟩,
    fun clears => ⟨⟨_, exec_busClearEnd_gate clears true, ?cleared⟩, ⟨_, exec_busClearEnd_gate clears false, ?failed⟩⟩,
    ?hold⟩
  case cleared =>
    rw [if_pos rfl]
    have counts : cageBecomes k { c with
        gate := { c.gate with port := .free }
        seq := { c.seq with counters := c.seq.counters.busClear } } s
        ((s.count k Counters.busClear).modGate k Gate.downStop) :=
      (cageBecomes_modCage rfl : cageBecomes k { c with seq := { c.seq with counters := c.seq.counters.busClear } } s
        (s.count k Counters.busClear)).modGate rfl
    have start := State.gateStart_frame ((s.count k Counters.busClear).modGate k Gate.downStop) k
    rw [counts.cage] at start
    exact cageBecomes_trans counts start
  case failed =>
    rw [if_neg Bool.false_ne_true, State.gateStuck_eq]
    refine ⟨fun free => ?_, fun h hand stretches => ?_⟩
    · refine ends ⟨_, _, rfl⟩ ?_ rfl (cageBecomes_modGate ?_)
      · dsimp only
        split <;> simp
      · show (if c.gate.stretching then _ else _) = _
        rw [if_neg (by simp [free])]
        exact Gate.endStuck_eq _ free
    · refine ends ⟨_, _, rfl⟩ (by simp [Gate.refuses]) rfl (cageBecomes_modGate ?_)
      show (if c.gate.stretching then _ else _) = _
      rw [if_pos stretches]
      exact Gate.refuseStuck_refuses hand
  case hold =>
    intro h held released hand unclear relays time
    have awaits : c.gate.relay = .relaying ∨ c.gate.awaitsAnswer = true :=
      relays.imp_right fun waits => Gate.awaitsAnswer_of waits.1 waits.2 unclear
    refine ⟨fun below => ⟨_, exec_cclHoldExpiry_below hand awaits released below, ?below⟩,
      fun reached => ⟨_, _, exec_cclHoldExpiry_reached hand awaits released reached, State.applySelect_becomes hand,
        ?reached⟩⟩
    case below =>
      refine cageBecomes_modGate ?_
      cases released with
      | false => rfl
      | true =>
        simp only [if_true, Gate.holdEnds]
        split <;> rfl
    case reached =>
      intro b rest g
      obtain ⟨⟨j, cage⟩, _⟩ := State.handOver_kept (s.modGate k Gate.applySelect) k h
      have same : b = (s.modGate k Gate.applySelect).handOver k h := rfl
      rw [(State.applySelect_becomes hand).cage, ← same] at cage
      rw [State.cclHeld_eq, ← same]
      refine ⟨fun relaying => ?_, fun waiting => ?_⟩
      · refine ends ⟨_, _, cage⟩ (by simp [Gate.refuses]) unclear (cageBecomes_modGate ?_)
        rw [State.takeFault_cage, cage]
        exact Gate.refuseHeld_relaying (g := c.gate.selected h) h relaying
      · refine ends ⟨_, _, cage⟩ (by simp [Gate.refuses]) unclear (cageBecomes_modGate ?_)
        rw [State.takeFault_cage, cage]
        exact Gate.refuseHeld_waiting (g := c.gate.selected h) h waiting

end Sys2Proof.Machine
end

section
/-! SUPPORT. DEFER_DATA_BYTE: the byte placed in its entry, and the refusal of one that finds no room (R165–R168), and the
proof of O41. -/

namespace Sys2Proof.Machine

/-! ## The FILLING entry of the queue -/

theorem Buffers.mapFilling_replace (b : Buffers) (e : DeferEntry) : b.mapFilling (fun _ => some e) =
    { b with queue := b.queue.map fun x => if x.filling then e else x } := by
  have replaces : (fun x : DeferEntry => if x.filling then some e else some x) =
      some ∘ fun x => if x.filling then e else x := funext fun x => (apply_ite some _ e x).symm
  rw [Buffers.mapFilling, replaces, List.filterMap_eq_map]

theorem Buffers.mapFilling_discard (b : Buffers) : b.mapFilling (fun _ => none) =
    { b with queue := b.queue.filter fun x => !x.filling } := by
  have keeps : (fun x : DeferEntry => if x.filling then none else some x) = Option.guard fun x => !x.filling := by
    funext x
    cases filling : x.filling <;> simp [Option.guard, filling]
  rw [Buffers.mapFilling, keeps, List.filterMap_eq_filter]

/-! ## The refusal -/

/-- A cage whose gate has refused a DEFER byte of `h`, the refusal counted, the controller pointer at `p` (R166). -/
def Cage.deferRefused (c : Cage) (h : InHand) (p : Byte) : Cage :=
  { c with
    gate := { c.gate.refuses h with ctrl := { c.gate.ctrl with pointer := p } }
    seq := { c.seq with counters := c.seq.counters.busyRefusal } }

theorem State.refuseRest_count (s : State) (k : CageId) (h : InHand) (p : Byte) :
    (s.modGate k fun g => { g.refuseRest h .nack with ctrl := { g.ctrl with pointer := p } }).count k
      Counters.busyRefusal = s.modCage k fun c => c.deferRefused h p := by
  unfold State.count State.modSeq State.modGate
  rw [State.modCage_modCage]
  rfl

/-! ## The byte by the place of its entry -/

section
variable {s : State} {k : CageId} {h : InHand} (b : Byte) {o : Byte} (offset : h.offset = some o)
include offset

/-- A byte that meets a CLOSED queue finds no entry (R166). -/
theorem State.deferByte_closed (closed : h.place = .closed) : s.deferByte k h b =
    s.modCage k fun c => c.deferRefused { h.counted with sheetSelect := none } o := by
  have entry : (s.cage k).deferEntry? h = none := by simp only [Cage.deferEntry?, closed]
  simp only [State.deferByte, entry, offset, Option.getD_some]
  exact State.refuseRest_count s k _ o

variable {e : DeferEntry}

section
variable (queued : h.place = .queued) (filling : (s.cage k).buffers.filling? = some e)
include queued filling

/-- A byte joins the FILLING entry at the queue's tail (R165). -/
theorem State.deferByte_queued (room : e.data.length < 16) : s.deferByte k h b = s.modCage k fun c => { c with
      gate := c.gate.waits { h.counted with
        sheetSelect := if advanceN o e.data.length = 125 then some b else h.sheetSelect } .ack
      buffers := { c.buffers with
        queue := c.buffers.queue.map fun x => if x.filling then { e with data := e.data ++ [b] } else x } } := by
  have entry : (s.cage k).deferEntry? h = some e := by simp only [Cage.deferEntry?, queued, filling]
  simp only [State.deferByte, entry, offset, queued, Option.getD_some, if_pos room, Buffers.mapFilling_replace]
  exact State.modCage_modCage s k _ _

/-- A seventeenth byte takes the FILLING entry out of the queue (R166). -/
theorem State.deferByte_queuedFull (full : 16 ≤ e.data.length) : s.deferByte k h b =
    (s.modCage k fun c => Cage.deferRefused
      { c with buffers := { c.buffers with queue := c.buffers.queue.filter fun x => !x.filling } }
      { h.counted with place := .closed } (advanceN o e.data.length)).resumeDrain k := by
  have entry : (s.cage k).deferEntry? h = some e := by simp only [Cage.deferEntry?, queued, filling]
  simp only [State.deferByte, entry, offset, queued, Option.getD_some, if_neg (Nat.not_lt.2 full),
    Buffers.mapFilling_discard, State.refuseRest_count]
  exact congrArg (State.resumeDrain · k) (State.modCage_modCage s k _ _)

end

variable (detached : h.place = .detached e)
include detached

/-- A byte joins the entry that the gate alone holds (R165, R168). -/
theorem State.deferByte_detached (room : e.data.length < 16) : s.deferByte k h b = s.modGate k fun g =>
    g.waits { h.counted with
      sheetSelect := if advanceN o e.data.length = 125 then some b else h.sheetSelect
      place := .detached { e with data := e.data ++ [b] } } .ack := by
  have entry : (s.cage k).deferEntry? h = some e := by simp only [Cage.deferEntry?, detached]
  simp only [State.deferByte, entry, offset, detached, Option.getD_some, if_pos room]
  rfl

/-- A seventeenth byte discards the entry that the gate alone holds (R166, R168). -/
theorem State.deferByte_detachedFull (full : 16 ≤ e.data.length) : s.deferByte k h b =
    (s.modCage k fun c => c.deferRefused { h.counted with place := .closed }
      (advanceN o e.data.length)).resumeDrain k := by
  have entry : (s.cage k).deferEntry? h = some e := by simp only [Cage.deferEntry?, detached]
  simp only [State.deferByte, entry, offset, detached, Option.getD_some, if_neg (Nat.not_lt.2 full),
    State.refuseRest_count]

end

/-! ## The command -/

theorem exec_deferDataByte {s : State} {k : CageId} {h : InHand} (takes : s.takes k h .data) (b : Byte)
    (defers : h.treatment = .defer) : exec (.deferDataByte k b) s = .next (s.deferByte k h b) := by
  have hand := State.takes_at takes
  obtain ⟨released, serves, quiet, _⟩ := takes
  show Host.Outcome.next (s.upper k .nack _) = _
  rw [State.upper_done released quiet, hand]
  dsimp only
  rw [if_pos defers, State.quietStall_inService]
  exact (Keeps.refl k s).deferByte.resetLoading.trans serves

/-- Settles O41: the byte by the place of its entry, and a channel that waits in DRAIN by `State.resumeDrain`. -/
theorem deferByteBounded : Obligations.DeferByteBounded := by
  unfold Obligations.DeferByteBounded
  intro k b o h s c takes defers offset n drains refused
  have run := exec_deferDataByte takes b defers
  have becomes {f : Cage → Cage} (gives : s.deferByte k h b = s.modCage k f) :
      ∃ t : State, exec (.deferDataByte k b) s = .next t ∧ cageBecomes k (f c) s t :=
    ⟨_, run.trans (congrArg _ gives), cageBecomes_modCage rfl⟩
  have discards {f : Cage → Cage} (gives : s.deferByte k h b = (s.modCage k f).resumeDrain k) :
      ∃ u : State, drains u ∧ cageBecomes k (f c) s u := by
    rw [gives] at run
    exact ⟨_, ⟨fun ch x held waits => run.trans (congrArg _ (State.resumeDrain_waits _ k ch x held waits)),
      fun other => run.trans (congrArg _ (State.resumeDrain_other _ k other))⟩, cageBecomes_modCage rfl⟩
  exact ⟨fun e queued filling => ⟨fun room => becomes (State.deferByte_queued b offset queued filling room),
      fun full => discards (State.deferByte_queuedFull b offset queued filling full)⟩,
    fun e detached => ⟨fun room => becomes (State.deferByte_detached b offset detached room),
      fun full => discards (State.deferByte_detachedFull b offset detached full)⟩,
    fun closed => becomes (State.deferByte_closed b offset closed)⟩

end Sys2Proof.Machine
end

section
/-! SUPPORT. How a directive is refused on arrival or waits in the slot (R176, R178, R182), and the proof of O52. -/

namespace Sys2Proof.Machine

theorem lookupCode_byte (c : Code) : lookupCode c.byte = some c := by
  cases c <;> rfl

theorem Code.byte_range (c : Code) : 0 < c.byte.toNat ∧ c.byte.toNat ≤ 0x0B := by
  cases c <;> decide

/-- A code outside the table's range is in no row of it (R176). -/
theorem lookupCode_unknown {code : Byte} (outside : code = 0 ∨ 0x0B < code.toNat) : lookupCode code = none := by
  rw [lookupCode, List.find?_eq_none]
  intro c _ equal
  obtain rfl : c.byte = code := of_decide_eq_true equal
  obtain ⟨low, high⟩ := c.byte_range
  rcases outside with zero | above
  · exact absurd (congrArg BitVec.toNat zero) (Nat.ne_of_gt low)
  · omega

theorem injectArgument_odd {arg : Option Byte} (odd : ∀ m : Byte, arg = some m → bitCount m % 2 = 1 ∧ 3 ≤ bitCount m) :
    injectArgument arg = false := by
  cases arg with
  | none => rfl
  | some m =>
    obtain ⟨bits, three⟩ := odd m rfl
    simp only [injectArgument, Bool.or_eq_false_iff, decide_eq_false_iff_not]
    omega

section
variable {s : State} {k : CageId} (inService : s.inService = true) {arg : Option Byte}
include inService

theorem exec_unknownDirectiveCode {code : Byte} (unknown : lookupCode code = none) :
    exec (.unknownDirectiveCode k code arg) s = .next (s.refuse k { code := code, arg := arg } .code) := by
  show execUnknownDirectiveCode k code arg s = _
  simp only [execUnknownDirectiveCode, unknown, State.directive_inService _ _ _ _ inService, State.arrive]

theorem exec_inject_refused (badArgument : injectArgument arg = false) :
    exec (.inject k arg) s = .next (s.refuse k { code := 0x08, arg := arg } .argument) := by
  show Host.Outcome.next (s.directive k Code.inject.byte arg) = _
  rw [State.directive_inService _ _ _ _ inService, State.arrive]
  simp only [lookupCode_byte, badArgument, and_self, if_true]
  rfl

/-- A cage directive waits in RESTORE, and any but RESEAT in a cursor return (R178). -/
theorem State.directive_waits {c : Code} (cageWide : c.partWide = false)
    (argument : c = .inject → injectArgument arg = true)
    (waits : (s.cage k).seq.state = .restore ∨ (s.cage k).seq.ret.isSome = true ∧ c ≠ .reseat) :
    s.directive k c.byte arg = s.placeDirective k { code := c.byte, arg := arg } := by
  have taken : ¬(c = .inject ∧ injectArgument arg = false) := fun ⟨inject, bad⟩ => by simp [argument inject] at bad
  rw [State.directive_inService _ _ _ _ inService, State.arrive]
  simp only [lookupCode_byte, if_neg taken, cageWide, Bool.false_eq_true, if_false]
  rw [State.actOrWait, State.stateOf]
  rcases waits with restoring | ⟨returning, other⟩
  · rw [if_pos restoring]
  · rw [if_pos returning, if_neg other, ite_self]

end

/-- Settles O52: the refusals by what the decoder looks up, the slot by `State.placeDirective_frame`. -/
theorem directivesWaitInSlot : Obligations.DirectivesWaitInSlot := by
  unfold Obligations.DirectivesWaitInSlot
  intro k arg s c inService refused
  refine ⟨fun code outside => exec_unknownDirectiveCode inService (lookupCode_unknown outside),
    fun odd => exec_inject_refused inService (injectArgument_odd odd), ?_⟩
  intro i code waits listed d
  have placed {a : Code} (cageWide : a.partWide = false) (argument : a = .inject → injectArgument arg = true)
      (byte : a.byte = code) (run : exec i s = .next (s.directive k a.byte arg)) :
      exec i s = .next (s.placeDirective k d) := by
    have other : code ≠ 0x01 → a ≠ .reseat := fun differs reseat => differs (by rw [← byte, reseat]; rfl)
    rw [run, State.directive_waits inService cageWide argument (waits.imp_right (And.imp_right other)), byte]
  have run : exec i s = .next (s.placeDirective k d) := by
    simp only [List.mem_cons, Prod.mk.injEq, List.not_mem_nil, or_false] at listed
    rcases listed with (⟨rfl, rfl⟩ | ⟨rfl, rfl⟩ | ⟨rfl, rfl⟩ | ⟨rfl, rfl⟩ | ⟨rfl, rfl⟩ | ⟨rfl, rfl⟩ | ⟨rfl, rfl⟩) |
      ⟨rfl, rfl, m, rfl, bits⟩
    · exact placed (a := .reseat) rfl nofun rfl rfl
    · exact placed (a := .resume) rfl nofun rfl rfl
    · exact placed (a := .forget) rfl nofun rfl rfl
    · exact placed (a := .restoreNow) rfl nofun rfl rfl
    · exact placed (a := .freeze) rfl nofun rfl rfl
    · exact placed (a := .thaw) rfl nofun rfl rfl
    · exact placed (a := .report) rfl nofun rfl rfl
    · exact placed (a := .inject) rfl (fun _ => injectArgument_some bits) rfl rfl
  obtain ⟨free, replaced⟩ := s.placeDirective_frame k d
  exact ⟨fun empty => ⟨_, run, free empty⟩, fun old waiting => ⟨_, run, replaced old waiting⟩⟩

end Sys2Proof.Machine
end

section
/-! SUPPORT. REPORT, the part-wide directives and the Fault Log's intake (R177, R188, R189, R197), and the proof of O51. -/

namespace Sys2Proof.Machine

/-- In service a part-wide directive acts in every cage state (R177). -/
theorem State.directive_partWide {s : State} {k : CageId} (inService : s.inService = true) {c : Code} (h : c ≠ .inject)
    (partWide : c.partWide = true) (arg : Option Byte) :
    s.directive k c.byte arg = s.act k c { code := c.byte, arg := arg } := by
  rw [State.directive_inService _ _ _ _ inService, State.arrive_partWide _ _ _ _ h partWide]

theorem loByte_toNat_ofNat (d : Nat) : loByte (BitVec.ofNat 16 d).toNat = BitVec.ofNat 8 d := by
  apply BitVec.eq_of_toNat_eq
  simp only [loByte, BitVec.toNat_ofNat]
  omega

theorem hiByte_toNat_ofNat (d : Nat) : hiByte (BitVec.ofNat 16 d).toNat = BitVec.ofNat 8 (d % 65536 / 256) := by
  rw [hiByte, BitVec.toNat_ofNat]

/-- The FAULT frame of a cage's fault with details cut to 16 bits (R204). -/
theorem faultFrame_cage (kind : FaultKind) (k : CageId) (st : CageState) (uptime : BitVec 32) (d1 d2 : Nat) :
    faultFrame { kind := kind, cage := some k, state := some st, uptime := uptime, detail1 := BitVec.ofNat 16 d1,
                 detail2 := BitVec.ofNat 16 d2 } =
      frameOf .fault (cageByte k) (BitVec.ofNat 8 (kind.code * 16 + st.code))
        (BitVec.ofNat 8 (d1 % 65536 / 256)) (BitVec.ofNat 8 d1) (BitVec.ofNat 8 (d2 % 65536 / 256))
        (BitVec.ofNat 8 d2) := by
  simp only [faultFrame, hiByte_toNat_ofNat, loByte_toNat_ofNat]
  rfl

/-- The first fault fills the record (R197). -/
theorem FaultLog.take_first {l : FaultLog} (absent : l.first = none) (e : FaultEntry) :
    l.take e = { l with first := some e } := by
  rw [FaultLog.take, absent]

/-- A later fault joins the set and the count (R196, R197). -/
theorem FaultLog.take_later {l : FaultLog} {old : FaultEntry} (first : l.first = some old) (e : FaultEntry) :
    l.take e = { l with later := l.later ||| e.kind.bit, laterCount := min (l.laterCount + 1) 255 } := by
  rw [FaultLog.take, first]

theorem State.actReport_eq (s : State) (k : CageId) : s.actReport k = { s with
    notice := ((((s.notice.submit (s.report1 k)).submit (s.report2 k)).submit (s.report3 k)).submit
      (s.report4 k)).submit (s.report5 k) } := by
  rw [State.actReport, State.submitAll, State.reportFrames]
  simp only [List.foldl_cons, List.foldl_nil]

theorem State.actReload_idle {s : State} (idle : s.loader.load = none) (k : CageId) (d : Directive) :
    s.actReload k d = { s with loader := s.loader.begin .reload } := by
  rw [State.actReload, idle]

theorem State.actReload_busy {s : State} (busy : s.loader.load ≠ none) (k : CageId) (d : Directive) :
    s.actReload k d = s.refuse k d .busy := by
  rw [State.actReload]
  cases load : s.loader.load with
  | none => exact absurd load busy
  | some _ => rfl

/-- Settles O51: the intake by `FaultLog.take_first` and `FaultLog.take_later`, each directive by its act on arrival. -/
theorem reportAndPartDirectives : Obligations.ReportAndPartDirectives := by
  unfold Obligations.ReportAndPartDirectives
  constructor
  case left =>
    intro kind k d1 d2 s e frame
    have shown : faultFrame e = frame := faultFrame_cage kind k _ _ d1 d2
    refine ⟨rfl, fun absent => ?_, fun old first => ?_⟩
    · rw [State.takeFault, shown, FaultLog.take_first absent]
    · rw [State.takeFault, shown, FaultLog.take_later first]
      rfl
  case right =>
    intro k arg s c inService
    have acts {a : Code} (partWide : a.partWide = true) (h : a ≠ .inject) :
        s.directive k a.byte arg = s.act k a { code := a.byte, arg := arg } :=
      State.directive_partWide inService h partWide arg
    have reloads : exec (.reload k arg) s = .next (s.actReload k { code := 0x0B, arg := arg }) :=
      congrArg Host.Outcome.next (acts (a := .reload) rfl (by decide))
    refine ⟨congrArg Host.Outcome.next (acts (a := .log) rfl (by decide)),
      congrArg Host.Outcome.next (acts (a := .clearLog) rfl (by decide)),
      fun idle => ?starts, fun busy => ?refused, fun notRestore noReturn => ?reports⟩
    case starts =>
      rw [reloads, State.actReload_idle idle]
      rfl
    case refused =>
      rw [reloads, State.actReload_busy busy]
      rfl
    case reports =>
      have run : exec (.report k arg) s = .next (s.actReport k) := congrArg Host.Outcome.next
        (State.directive_acts inService notRestore noReturn (c := .report) (by decide) rfl arg)
      rw [run, State.actReport_eq]

end Sys2Proof.Machine
end

section
/-! SUPPORT. RESEAT on arrival and out of a cursor return (R63, R178, R183), and the proof of O47. -/

namespace Sys2Proof.Machine

/-- What RESEAT makes of the gate: a stuck check or bus clear made for the sequencer is dropped (log entry 35). -/
theorem Gate.unchecked_eq (g : Gate) : g.unchecked = if g.stuckForSeq then { g with
    clearing := false, stallElapsed := 0, stallUse := if g.inHand.isSome then .upstream else .stopped } else g := by
  unfold Gate.unchecked
  by_cases stuck : g.stuckForSeq = true
  · have unstretched : g.stretching = false := by
      simpa using (Bool.and_eq_true_iff.mp stuck).1
    rw [if_pos stuck, if_pos stuck, Gate.endStuck, unstretched]
    rfl
  · rw [if_neg stuck, if_neg stuck]

/-- Cage `d`, which was `c` before it left its lists and adopted, once RESEAT has taken it to SETTLE (R183). -/
def Cage.restarted (c d : Cage) : Cage :=
  { d.settling with seq := { d.settling.seq with carried := c.seqTrans? }, gate := c.gate.unchecked }

/-- Everything RESEAT does outside EMPTY and RESTORE, as a frame (R183). -/
theorem State.reseatNow_becomes (s : State) (k : CageId) : let a := (s.unlisted k).adoptSeq k
    cageBecomes k ((s.cage k).restarted (a.cage k)) a (s.reseatNow k) := by
  obtain ⟨-, -, -, -, gate, -⟩ := s.unlisted_kept k k
  have kept : (((s.unlisted k).adoptSeq k).cage k).gate = (s.cage k).gate := (State.adoptSeq_gate _ k).trans gate
  rw [State.reseatNow_eq]
  refine cageBecomes_modCage ?_
  rw [Cage.restarted, ← kept, Gate.unchecked_eq]
  rfl

theorem State.actReseat_empty {s : State} {k : CageId} (empty : (s.cage k).seq.state = .empty) (d : Directive) :
    s.actReseat k d = s.refuse k d .state := by
  rw [State.actReseat, State.stateOf, empty]

theorem State.actReseat_occupied {s : State} {k : CageId} (occupied : (s.cage k).seq.state ≠ .empty) (d : Directive) :
    s.actReseat k d = s.reseatNow k := by
  rw [State.actReseat, State.stateOf]
  cases st : (s.cage k).seq.state with
  | empty => exact absurd st occupied
  | _ => rfl

/-- The part once RESEAT has emptied the directive slot of a cursor return that it breaks off (R63, R178). -/
def State.returnBroken (s : State) (k : CageId) : State := if (s.cage k).seq.ret.isSome then s.discardSlot k else s

theorem State.returnBroken_becomes (s : State) (k : CageId) :
    cageBecomes k { s.cage k with slot := if (s.cage k).seq.ret.isSome then none else (s.cage k).slot }
      { s with notice := if (s.cage k).seq.ret.isSome then s.discardNotice k else s.notice } (s.returnBroken k) := by
  unfold State.returnBroken
  by_cases returning : (s.cage k).seq.ret.isSome = true
  · simp only [if_pos returning]
    exact s.discardSlot_becomes k
  · simp only [if_neg returning]
    exact cageBecomes_self rfl

/-- RESEAT outside RESTORE and EMPTY acts at once, after what it makes of a cursor return (R178, R183). -/
theorem exec_reseat {s : State} {k : CageId} (inService : s.inService = true) (occupied : (s.cage k).seq.state ≠ .empty)
    (notRestore : (s.cage k).seq.state ≠ .restore) (arg : Option Byte) :
    exec (.reseat k arg) s = .next ((s.returnBroken k).reseatNow k) := by
  have state : ((s.returnBroken k).cage k).seq.state = (s.cage k).seq.state :=
    congrArg (fun c => c.seq.state) (s.returnBroken_becomes k).cage
  rw [← State.actReseat_occupied (by rw [state]; exact occupied) { code := 0x01, arg := arg }]
  show Host.Outcome.next (s.directive k Code.reseat.byte arg) = _
  rw [State.directive_inService _ _ _ _ inService, State.arrive_cage _ _ _ _ (by decide) rfl, State.actOrWait,
    State.stateOf, if_neg notRestore, State.returnBroken]
  split <;> rfl

/-- Settles O47: the slot and the notice by `State.returnBroken_becomes`, the restart by `State.reseatNow_becomes`. -/
theorem reseatRestartsModule : Obligations.ReseatRestartsModule := by
  unfold Obligations.ReseatRestartsModule
  intro k arg s c inService
  refine ⟨fun empty noReturn => ?refused, fun occupied notRestore =>
    ⟨s.returnBroken k, _, exec_reseat inService occupied notRestore arg, ?slot, ?restarted⟩⟩
  case refused =>
    have state : (s.cage k).seq.state = .empty := empty
    have acts := State.directive_acts inService (by rw [state]; decide) noReturn (c := .reseat) (by decide) rfl arg
    refine ⟨_, congrArg Host.Outcome.next acts, ?_⟩
    rw [← state]
    exact State.actReseat_empty empty _
  case slot =>
    have broken := s.returnBroken_becomes k
    rw [State.discardNotice] at broken
    cases returning : (s.cage k).seq.ret with
    | none =>
      simp only [returning] at broken ⊢
      exact broken
    | some r =>
      simp only [returning] at broken ⊢
      cases waiting : (s.cage k).slot with
      | none | some d =>
        simp only [waiting] at broken ⊢
        exact broken
  case restarted =>
    have restarts := (s.returnBroken k).reseatNow_becomes k
    dsimp only at restarts
    rw [(s.returnBroken_becomes k).cage, Cage.restarted, Gate.unchecked_eq] at restarts
    exact restarts

end Sys2Proof.Machine
end

section
/-! SUPPORT. RESUME and RESTORE_NOW by the cage's state and its journal (R184, R186), and the proof of O48. -/

namespace Sys2Proof.Machine

/-- A cage that has just entered QUEUED or STAGED, its WAIT started (R51–R53, R87). -/
def Cage.waiting (p : PresencePolicy) (st : CageState) (c : Cage) : Cage := { c with
  seq := { c.seq with state := st, adoptPending := false, pint := false, ppres := decide (p = .early), attempt := none,
                      due := .none, ret := none, started := false }
  timer := { use := .wait, elapsed := 0 } }

/-- The step into QUEUED after a change of the cage: the unit checks its head where the list was empty (R98, R101). -/
theorem State.toQueued_becomes (s : State) (k : CageId) (f : Cage → Cage) : ∃ u : State,
    (s.modCage k f).toQueued k = (if s.power.list = [] then u.checkHead else u) ∧
    cageBecomes k ((f (s.cage k)).waiting s.profile.policy .queued)
      { s with power := s.power.join k (f (s.cage k)).seq.powerClass } u := by
  refine ⟨_, by rw [State.toQueued_modCage]; simp only [List.isEmpty_iff]; rfl, cageBecomes_modCage ?_⟩
  rw [Cage.waiting, ← ppresFor_waiting _ .queued (.inl rfl)]
  rfl

/-- The step into STAGED after a change of the cage (R68, R110). -/
theorem State.toStaged_waits (s : State) (k : CageId) (f : Cage → Cage) :
    cageBecomes k ((f (s.cage k)).waiting s.profile.policy .staged) { s with staged := s.staged ++ [k] }
      ((s.modCage k f).toStaged k) := by
  rw [State.toStaged_modCage]
  refine cageBecomes_modCage ?_
  rw [Cage.waiting, ← ppresFor_waiting _ .staged (.inr rfl)]
  rfl

/-- A cage with this restore decision, which YES notes in the restore-incomplete flag (R47). -/
def Cage.decided (yes : Bool) (c : Cage) : Cage := { c with
  seq := { c.seq with decision := yes }, journal := { c.journal with incomplete := c.journal.incomplete || yes } }

section
variable {s : State} {k : CageId} (d : Directive)

theorem State.actResume_held (held : (s.cage k).seq.state = .held) (usable : (s.cage k).journal.state.usable = true) :
    s.actResume k d = (s.modCage k (Cage.decided (decide (0 < (s.cage k).journal.slots.length)))).toQueued k := by
  rw [State.actResume, State.stateOf, held]
  exact if_pos usable

theorem State.actResume_unusable (held : (s.cage k).seq.state = .held)
    (unusable : (s.cage k).journal.state.usable = false) : s.actResume k d = s.refuse k d .journal := by
  rw [State.actResume, State.stateOf, held]
  exact if_neg (by rw [unusable]; exact Bool.false_ne_true)

theorem State.actResume_other (other : (s.cage k).seq.state ≠ .held) : s.actResume k d = s.refuse k d .state := by
  rw [State.actResume, State.stateOf]
  cases st : (s.cage k).seq.state with
  | held => exact absurd st other
  | _ => rfl

theorem State.actRestoreNow_live (live : (s.cage k).seq.state = .live)
    (restores : (s.cage k).journal.state.usable = true ∧ 0 < (s.cage k).journal.slots.length) :
    s.actRestoreNow k d = (s.modCage k (Cage.decided true)).toStaged k := by
  rw [State.actRestoreNow, State.stateOf, live]
  refine (if_pos restores).trans (congrArg (fun u : State => u.toStaged k) (State.modCage_congr s k _ _ ?_))
  rw [Cage.decided, Bool.or_true]

theorem State.actRestoreNow_nothing (live : (s.cage k).seq.state = .live)
    (nothing : ¬((s.cage k).journal.state.usable = true ∧ 0 < (s.cage k).journal.slots.length)) :
    s.actRestoreNow k d = s.refuse k d .journal := by
  rw [State.actRestoreNow, State.stateOf, live]
  exact if_neg nothing

theorem State.actRestoreNow_other (other : (s.cage k).seq.state ≠ .live) :
    s.actRestoreNow k d = s.refuse k d .state := by
  rw [State.actRestoreNow, State.stateOf]
  cases st : (s.cage k).seq.state with
  | live => exact absurd st other
  | _ => rfl

end

theorem JournalState.usable_iff (st : JournalState) : st.usable = true ↔ st = .opened ∨ st = .frozen := by
  rw [JournalState.usable_eq, decide_eq_true_eq]

/-- Settles O48: the entries by `State.toQueued_becomes` and `State.toStaged_waits`, the refusals by state and journal. -/
theorem resumeAndRestoreNow : Obligations.ResumeAndRestoreNow := by
  unfold Obligations.ResumeAndRestoreNow
  intro k arg s c inService notRestore noReturn usable yes refused waits
  have resumes : exec (.resume k arg) s = .next (s.actResume k { code := 0x02, arg := arg }) :=
    congrArg Host.Outcome.next (State.directive_acts inService notRestore noReturn (c := .resume) (by decide) rfl arg)
  have restores : exec (.restoreNow k arg) s = .next (s.actRestoreNow k { code := 0x04, arg := arg }) :=
    congrArg Host.Outcome.next (State.directive_acts inService notRestore noReturn (c := .restoreNow) (by decide) rfl arg)
  refine ⟨fun held use => ?queued, fun held unusable => ?unusable, fun other => ?notHeld, fun live use holds => ?staged,
    fun live nothing => ?nothing, fun other => ?notLive⟩
  case queued =>
    obtain ⟨u, entered, becomes⟩ := s.toQueued_becomes k (Cage.decided yes)
    rw [resumes, State.actResume_held _ held ((JournalState.usable_iff _).2 use)]
    exact ⟨u, congrArg Host.Outcome.next entered, becomes⟩
  case unusable =>
    rw [resumes, State.actResume_unusable _ held (Bool.eq_false_iff.2 (mt (JournalState.usable_iff _).1 unusable))]
    rfl
  case notHeld =>
    rw [resumes, State.actResume_other _ other]
    rfl
  case staged =>
    rw [restores, State.actRestoreNow_live _ live ⟨(JournalState.usable_iff _).2 use, of_decide_eq_true holds⟩]
    exact ⟨_, rfl, s.toStaged_waits k (Cage.decided true)⟩
  case nothing =>
    have neither : ¬((s.cage k).journal.state.usable = true ∧ 0 < (s.cage k).journal.slots.length) :=
      fun ⟨use, holds⟩ => nothing.elim (fun unusable => unusable ((JournalState.usable_iff _).1 use))
        fun no => of_decide_eq_false no holds
    rw [restores, State.actRestoreNow_nothing _ live neither]
    rfl
  case notLive =>
    rw [restores, State.actRestoreNow_other _ other]
    rfl

end Sys2Proof.Machine
end

section
/-! SUPPORT. FORGET on the journal and on the cage by its state (R44, R185), and the proof of O49. -/

namespace Sys2Proof.Machine

/-- Freeing slots unread keeps all that they hold but their use (R44, R191). -/
theorem SlotMem.read_foldl_free_eq (l : List Nat) {m : SlotMem} (wf : SlotMem.wf m = true) (i : Nat) :
    SlotMem.read (l.foldl SlotMem.free m) i =
      if i ∈ l then { SlotMem.read m i with used := false } else SlotMem.read m i := by
  induction l generalizing m with
  | nil => rfl
  | cons a l ih =>
    rw [List.foldl_cons, ih (SlotMem.wf_free wf)]
    by_cases own : i = a
    · subst own
      rw [SlotMem.read_free_same wf, if_pos List.mem_cons_self, ite_self]
    · simp only [SlotMem.read_free_other own, List.mem_cons, own, false_or]

/-- The part once FORGET has freed the slots of a journal (R44). -/
def State.slotsFreed (s : State) (k : CageId) : State :=
  { s with store := { s.store with slots := (s.cage k).journal.slots.foldl SlotMem.free s.store.slots } }

/-- A cage whose journal FORGET has emptied (R44). -/
def Cage.forgotten (c : Cage) : Cage := { c with journal := c.journal.emptied }

/-- The same with the restore decision NO (R185). -/
def Cage.forgottenNo (c : Cage) : Cage := { c.forgotten with seq := { c.seq with decision := false } }

theorem State.emptyJournal_eq (s : State) (k : CageId) :
    s.emptyJournal k = (s.slotsFreed k).modCage k Cage.forgotten := rfl

theorem State.emptyJournal_decideNo (s : State) (k : CageId) :
    (s.emptyJournal k).decideNo k = (s.slotsFreed k).modCage k Cage.forgottenNo :=
  State.modCage_modCage (s.slotsFreed k) k Cage.forgotten fun c => { c with seq := { c.seq with decision := false } }

/-- An adoption reads neither the store nor the staged list (R90). -/
theorem State.adoptSeq_storeStaged (s : State) (k : CageId) (store : Store) (staged : List CageId) :
    ({ s with store := store, staged := staged } : State).adoptSeq k =
      { s.adoptSeq k with store := store, staged := staged } := by
  obtain ⟨-, -, -, -, power, -, -, -, notice, -⟩ := s.adoptSeq_facts k
  have shared := s.adoptSeq_shared k staged s.power s.notice store
  rw [shared, ← power, ← notice]

theorem State.adoptSeq_slotsFreed (s : State) (k : CageId) :
    (s.slotsFreed k).adoptSeq k = { s.adoptSeq k with store := (s.slotsFreed k).store } := by
  obtain ⟨-, -, -, staged, -⟩ := s.adoptSeq_facts k
  calc (s.slotsFreed k).adoptSeq k
    _ = { s.adoptSeq k with store := (s.slotsFreed k).store, staged := s.staged } :=
        s.adoptSeq_storeStaged k (s.slotsFreed k).store s.staged
    _ = { s.adoptSeq k with store := (s.slotsFreed k).store } := by rw [← staged]

theorem Gate.stallBusy_eq (g : Gate) : (!g.stallBusy) = decide (g.stallUse = .stopped ∨ g.stallUse = .stuck) := by
  unfold Gate.stallBusy
  cases g.stallUse <;> rfl

section
variable {s : State} {k : CageId}

theorem State.actForget_stays (stays : (s.cage k).seq.state = .empty ∨ (s.cage k).seq.state = .settle ∨
    (s.cage k).seq.state = .probe ∨ (s.cage k).seq.state = .adopt ∨ (s.cage k).seq.state = .live) :
    s.actForget k = (s.slotsFreed k).modCage k Cage.forgotten := by
  rw [State.actForget, State.stateOf, State.emptyJournal_eq]
  rcases stays with st | st | st | st | st <;> rw [st]

theorem State.actForget_decides (decides : (s.cage k).seq.state = .queued ∨ (s.cage k).seq.state = .powerup) :
    s.actForget k = (s.slotsFreed k).modCage k Cage.forgottenNo := by
  rw [State.actForget, State.stateOf, ← State.emptyJournal_decideNo]
  rcases decides with st | st <;> rw [st]

theorem State.actForget_held (held : (s.cage k).seq.state = .held) :
    s.actForget k = ((s.slotsFreed k).modCage k Cage.forgottenNo).toQueued k := by
  rw [State.actForget, State.stateOf, held, State.emptyJournal_decideNo]

/-- STAGED leaves its list before it begins the cursor return (R110, R185). -/
theorem State.actForget_staged (staged : (s.cage k).seq.state = .staged) :
    s.actForget k = (((s.slotsFreed k).leaveStaged k).modCage k Cage.forgottenNo).startReturn k .live := by
  rw [State.actForget, State.stateOf, staged]
  exact congrArg (fun u : State => (u.leaveStaged k).startReturn k .live) (s.emptyJournal_decideNo k)

theorem State.actForget_faulted (faulted : (s.cage k).seq.state = .faulted) :
    s.actForget k = ((s.slotsFreed k).modCage k Cage.forgotten).reseatNow k := by
  rw [State.actForget, State.stateOf, faulted, State.emptyJournal_eq]

/-- A cursor return that FORGET begins in STAGED (R16, R63, R90). -/
theorem State.startReturn_forgotten (s : State) (k : CageId) (store : Store) (staged : List CageId) :
    let a := s.adoptSeq k
    let c := a.cage k
    cageBecomes k { c.forgottenNo with
      seq := { c.forgottenNo.seq with attempt := none, due := .none,
                                      started := decide (c.gate.stallUse = .stopped ∨ c.gate.stallUse = .stuck)
                                      ret := some { target := .live, goal := c.gate.ctrl, retry := .inHand } }
      timer := c.returnTimer } { a with store := store, staged := staged }
      ((({ s with store := store, staged := staged } : State).modCage k Cage.forgottenNo).startReturn k .live) := by
  dsimp only
  rw [State.startReturn_modCage _ _ _ _ (by exact fun _ => rfl) (by exact fun _ => rfl) (by exact fun _ _ => rfl),
    s.adoptSeq_storeStaged k store staged]
  refine cageBecomes_modCage ?_
  rw [← Gate.stallBusy_eq]
  rfl

/-- The restart of a cage in FAULTED whose journal FORGET has emptied (R183, R185). -/
theorem State.reseatNow_forgotten (faulted : (s.cage k).seq.state = .faulted) : let a := s.adoptSeq k
    cageBecomes k ((s.cage k).restarted (a.cage k)).forgotten { a with store := (s.slotsFreed k).store }
      (((s.slotsFreed k).modCage k Cage.forgotten).reseatNow k) := by
  have state : ((((s.slotsFreed k).modCage k Cage.forgotten).cage k)).seq.state = .faulted := by
    rw [State.cage_modCage_same]
    exact faulted
  have adopts : ((s.slotsFreed k).modCage k Cage.forgotten).adoptSeq k =
      ({ s.adoptSeq k with store := (s.slotsFreed k).store } : State).modCage k Cage.forgotten := by
    rw [State.adoptSeq_modCage _ _ _ (by exact fun _ => rfl) (by exact fun _ => rfl) (by exact fun _ _ => rfl),
      State.adoptSeq_slotsFreed]
  have restarts := ((s.slotsFreed k).modCage k Cage.forgotten).reseatNow_becomes k
  dsimp only at restarts
  rw [State.unlisted_other (by rw [state]; decide) (by rw [state]; decide) (by rw [state]; decide), adopts,
    State.cage_modCage_same, State.cage_modCage_same] at restarts
  exact cageBecomes_trans (cageBecomes_modCage rfl) restarts

end

/-- Settles O49: the store by `SlotMem.read_foldl_free_eq`, the cage by what FORGET does in its state. -/
theorem forgetEmptiesJournal : Obligations.ForgetEmptiesJournal := by
  unfold Obligations.ForgetEmptiesJournal
  intro k arg s c inService notRestore noReturn e d
  have run : exec (.forget k arg) s = .next (s.actForget k) :=
    congrArg Host.Outcome.next (State.directive_acts inService notRestore noReturn (c := .forget) (by decide) rfl arg)
  refine ⟨fun i wf => SlotMem.read_foldl_free_eq _ wf i, _, run, fun stays => ?stays, fun decides => ?decides,
    fun held => ?held, fun staged => ?staged, fun faulted => ?faulted⟩
  case stays =>
    rw [State.actForget_stays stays]
    exact cageBecomes_modCage rfl
  case decides =>
    rw [State.actForget_decides decides]
    exact cageBecomes_modCage rfl
  case held =>
    rw [State.actForget_held held]
    exact (s.slotsFreed k).toQueued_becomes k Cage.forgottenNo
  case staged =>
    rw [State.actForget_staged staged]
    have returns := s.startReturn_forgotten k e.store (s.staged.filter fun j => j ≠ k)
    obtain ⟨t, due, adopted⟩ := s.adoptSeq_cage k
    dsimp only at returns ⊢
    rw [adopted] at returns ⊢
    exact returns
  case faulted =>
    rw [State.actForget_faulted faulted]
    have restarts := s.reseatNow_forgotten faulted
    obtain ⟨t, due, adopted⟩ := s.adoptSeq_cage k
    dsimp only at restarts ⊢
    rw [adopted, Cage.restarted, Gate.unchecked_eq] at restarts
    rw [adopted]
    exact restarts

end Sys2Proof.Machine
end

section
/-! SUPPORT. The notice queue (R205), and the proof of O53. -/

namespace Sys2Proof.Machine

theorem NoticePort.leave_empty {n : NoticePort} (empty : n.queue = []) : n.leave = n := by
  rw [NoticePort.leave, empty]

theorem NoticePort.leave_none_lost {n : NoticePort} {f : Frame} {rest : List Frame} (queued : n.queue = f :: rest)
    (noneLost : n.lost = 0) : n.leave = { queue := rest, lost := 0 } := by
  rw [NoticePort.leave, queued]
  exact (if_pos noneLost).trans (congrArg _ noneLost)

theorem NoticePort.leave_lost {n : NoticePort} {f : Frame} {rest : List Frame} (queued : n.queue = f :: rest)
    (someLost : 0 < n.lost) : n.leave = { queue := rest ++ [lostCountFrame n.lost], lost := 0 } := by
  rw [NoticePort.leave, queued]
  exact if_neg (Nat.ne_of_gt someLost)

theorem exec_noticeFrameSent {s : State} {n : NoticePort} (leaves : s.notice.leave = n) :
    exec .noticeFrameSent s = .next { s with notice := n } := by
  rw [← leaves]
  rfl

/-- Settles O53: a frame leaves by the lemmas of `NoticePort.leave`, and joins where the queue has room. -/
theorem noticeLeavesQueue : Obligations.NoticeLeavesQueue := by
  unfold Obligations.NoticeLeavesQueue
  exact fun s f g rest => ⟨fun empty => exec_noticeFrameSent (NoticePort.leave_empty empty),
    fun queued noneLost => exec_noticeFrameSent (NoticePort.leave_none_lost queued noneLost),
    fun queued someLost => exec_noticeFrameSent (NoticePort.leave_lost queued someLost),
    fun room => if_pos room, fun full => if_neg (Nat.not_lt.2 full)⟩

end Sys2Proof.Machine
end

section
/-! SUPPORT. The ranges of the values made of a profile image (R24, R89, R96, R200, R202), and the proof of O10. -/

namespace Sys2Proof.Machine

/-! ## Values and positions -/

theorem clamp_mem {lo hi : Nat} (h : lo ≤ hi) (v : Nat) : lo ≤ clamp lo hi v ∧ clamp lo hi v ≤ hi :=
  ⟨Nat.le_max_left _ _, Nat.max_le.2 ⟨h, Nat.min_le_left _ _⟩⟩

theorem clampByte_mem (img : List Byte) (i : Nat) {lo hi : Nat} (h : lo ≤ hi) :
    lo ≤ clampByte img i lo hi ∧ clampByte img i lo hi ≤ hi := clamp_mem h _

theorem clampWord_mem (img : List Byte) (i : Nat) {lo hi : Nat} (h : lo ≤ hi) :
    lo ≤ clampWord img i lo hi ∧ clampWord img i lo hi ≤ hi := clamp_mem h _

theorem drawsOf_le (img : List Byte) (c : Fin 8) : (drawsOf img)[c] ≤ 1000 := by
  simp only [drawsOf, Fin.getElem_fin, Vector.getElem_ofFn]
  exact (clampWord_mem img _ (by decide)).2

/-- A clamped position lies in its area (R202). -/
theorem Area.clampPosition_lt_iff (a : Area) (p : Byte) : a = .base ↔ (a.clampPosition p).toNat < 128 := by
  cases a with
  | base =>
    refine ⟨fun _ => ?_, fun _ => rfl⟩
    rw [Area.clampPosition]
    split
    · assumption
    · decide
  | sheet n =>
    refine ⟨nofun, fun below => absurd below ?_⟩
    rw [Area.clampPosition]
    split
    · decide
    · assumption

theorem probeAt_inArea (img : List Byte) (i : Nat) :
    (probeAt img i).area = .base ↔ (probeAt img i).position.toNat < 128 := Area.clampPosition_lt_iff _ _

theorem fieldAt_inArea (img : List Byte) (i : Nat) :
    (fieldAt img i).area = .base ↔ (fieldAt img i).start.toNat < 128 := Area.clampPosition_lt_iff _ _

/-! ## The identity fields (R202) -/

theorem fitFields_sum_le (fs : List IdField) (left : Nat) : ((fitFields left fs).map IdField.length).sum ≤ left := by
  induction fs generalizing left with
  | nil => exact Nat.zero_le _
  | cons f fs ih =>
    unfold fitFields
    split
    · have rest := ih (left - f.length)
      rw [List.map_cons, List.sum_cons]
      omega
    · split
      · exact Nat.zero_le _
      · simp

theorem fitFields_length_le (fs : List IdField) (left : Nat) : (fitFields left fs).length ≤ fs.length := by
  induction fs generalizing left with
  | nil => exact Nat.le_refl _
  | cons f fs ih =>
    unfold fitFields
    split
    · exact Nat.succ_le_succ (ih _)
    · split
      · exact Nat.zero_le _
      · exact Nat.succ_le_succ (Nat.zero_le _)

theorem fitFields_length_pos {left : Nat} (room : 0 < left) (f : IdField) (fs : List IdField) :
    0 < (fitFields left (f :: fs)).length := by
  unfold fitFields
  split
  · exact Nat.succ_pos _
  · rw [if_neg (Nat.ne_of_gt room)]
    exact Nat.one_pos

/-- A field that is kept, shortened or not, has a byte left and starts where it did (R202; log entry 19). -/
theorem fitFields_mem {fs : List IdField} (whole : ∀ f ∈ fs, 1 ≤ f.length) {left : Nat} {q : IdField}
    (kept : q ∈ fitFields left fs) : 1 ≤ q.length ∧ ∃ f ∈ fs, q.area = f.area ∧ q.start = f.start := by
  induction fs generalizing left with
  | nil => exact absurd kept List.not_mem_nil
  | cons f fs ih =>
    unfold fitFields at kept
    split at kept
    · rcases List.mem_cons.1 kept with rfl | later
      · exact ⟨whole q List.mem_cons_self, q, List.mem_cons_self, rfl, rfl⟩
      · obtain ⟨long, g, listed, same⟩ := ih (fun g hg => whole g (List.mem_cons_of_mem _ hg)) later
        exact ⟨long, g, List.mem_cons_of_mem _ listed, same⟩
    · split at kept
      · exact absurd kept List.not_mem_nil
      · rename_i room
        obtain rfl := List.mem_singleton.1 kept
        exact ⟨Nat.one_le_iff_ne_zero.2 room, f, List.mem_cons_self, rfl, rfl⟩

theorem fieldsOf_length (img : List Byte) : 1 ≤ (fieldsOf img).length ∧ (fieldsOf img).length ≤ 4 := by
  obtain ⟨least, most⟩ := clampByte_mem img 57 (lo := 1) (hi := 4) (by decide)
  constructor
  · obtain ⟨n, count⟩ := Nat.exists_eq_add_of_le' least
    rw [fieldsOf, count, List.range_succ_eq_map, List.map_cons]
    exact fitFields_length_pos (by decide) _ _
  · refine (fitFields_length_le _ 24).trans ?_
    rwa [List.length_map, List.length_range]

theorem fieldsOf_mem {img : List Byte} {q : IdField} (h : q ∈ fieldsOf img) :
    1 ≤ q.length ∧ (q.area = .base ↔ q.start.toNat < 128) := by
  have whole : ∀ f ∈ (List.range (clampByte img 57 1 4)).map fun n => fieldAt img (58 + 5 * n), 1 ≤ f.length := by
    intro f listed
    obtain ⟨n, -, rfl⟩ := List.mem_map.1 listed
    exact (clampByte_mem img _ (by decide)).1
  obtain ⟨long, f, listed, area, start⟩ := fitFields_mem whole h
  obtain ⟨n, -, rfl⟩ := List.mem_map.1 listed
  rw [area, start]
  exact ⟨long, fieldAt_inArea img _⟩

/-! ## The capture rules (R24) -/

theorem ruleAt_intercept {img : List Byte} {i : Nat} (h : (ruleAt img i).action = .intercept) :
    (ruleAt img i).area = .base := by
  unfold ruleAt at h ⊢
  dsimp only at h ⊢
  split
  · rename_i sheet
    split at h
    · exact nomatch h
    · rename_i passed
      exact absurd ⟨sheet, h⟩ passed
  · rfl

theorem ruleAt_verify {img : List Byte} {i : Nat} (h : (ruleAt img i).verify = true) :
    (ruleAt img i).action = .record := of_decide_eq_true (Bool.and_eq_true_iff.1 h).2

theorem ruleAt_postDelay (img : List Byte) (i : Nat) :
    (0 < (ruleAt img i).postDelay → (ruleAt img i).action = .marker) ∧ (ruleAt img i).postDelay ≤ 255 := by
  by_cases marker : (ruleAt img i).action = .marker
  · have delay : (ruleAt img i).postDelay = (byteAt img (i + 5)).toNat := if_pos marker
    exact ⟨fun _ => marker, delay ▸ Nat.le_of_lt_succ (byteAt img (i + 5)).isLt⟩
  · have delay : (ruleAt img i).postDelay = 0 := if_neg marker
    exact ⟨fun h => absurd delay (Nat.ne_of_gt h), delay ▸ Nat.zero_le _⟩

theorem rulesFrom_length_le (img : List Byte) (i n : Nat) : (rulesFrom img i n).length ≤ n := by
  induction n generalizing i with
  | zero => exact Nat.le_refl _
  | succ n ih =>
    rw [rulesFrom, List.length_cons]
    split
    · exact Nat.succ_le_succ (Nat.zero_le n)
    · exact Nat.succ_le_succ (ih _)

theorem rulesFrom_mem {img : List Byte} {r : Rule} {i n : Nat} (h : r ∈ rulesFrom img i n) : ∃ m, r = ruleAt img m := by
  induction n generalizing i with
  | zero => exact absurd h List.not_mem_nil
  | succ n ih =>
    rcases List.mem_cons.1 h with first | later
    · exact ⟨i, first⟩
    · split at later
      · exact absurd later List.not_mem_nil
      · exact ih later

/-- Settles O10: the clamped values by `clamp_mem`, the fields by what `fitFields` keeps, the rules by `ruleAt`. -/
theorem installedProfileInRange : Obligations.InstalledProfileInRange := by
  unfold Obligations.InstalledProfileInRange
  intro img p t
  have bytes (i : Nat) {lo hi : Nat} (h : lo ≤ hi) := clampByte_mem img i h
  have words (i : Nat) {lo hi : Nat} (h : lo ≤ hi) := clampWord_mem img i h
  have first (i limit : Nat) : min (clampWord img i 0 2550) limit ≤ 2550 :=
    (Nat.min_le_left _ _).trans (words i (by decide)).2
  refine ⟨words 5 (by decide), words 9 (by decide), Nat.min_le_right _ _, first 7 _, words 13 (by decide),
    Nat.min_le_right _ _, first 11 _, bytes 15 (by decide), bytes 16 (by decide), bytes 17 (by decide),
    bytes 18 (by decide), bytes 19 (by decide), bytes 20 (by decide), (bytes 21 (by decide)).2, (words 22 (by decide)).2,
    bytes 24 (by decide), drawsOf_le img, (Area.clampPosition_lt_iff .base _).1 rfl, (bytes 56 (by decide)).2,
    bytes 174 (by decide), fun q probe => ?probes, fieldsOf_length img, fitFields_sum_le _ 24, fun q => fieldsOf_mem,
    ⟨Nat.succ_pos _, rulesFrom_length_le img 78 16⟩, fun r listed => ?rules⟩
  case probes =>
    rcases List.mem_pair.1 probe with rfl | rfl
    · exact probeAt_inArea img 44
    · exact probeAt_inArea img 49
  case rules =>
    obtain ⟨i, rfl⟩ := rulesFrom_mem listed
    exact ⟨ruleAt_intercept, ruleAt_verify, ruleAt_postDelay img i⟩

end Sys2Proof.Machine
end

section
/-! SUPPORT. The part at the end of a reset load (R78, R90, R95, R96, R201), and the proof of O8. -/

namespace Sys2Proof.Machine

/-! ## The comparison of the journals and the profile's installation -/

theorem Finding.clocked_eq (f : Finding) (img : List Byte) :
    f.clocked img = if f = .absent ∨ f = .bad 2 then 5 else 5 + bodyLength img + 2 := by
  cases f with
  | absent => rfl
  | bad cause => simp [Finding.clocked]
  | good => simp [Finding.clocked]

/-- A change of the cage records is one of the cages alone, and of their records alone. -/
theorem State.mapJournals_eq (s : State) (f : CageId → CageRecord → CageRecord) : ∃ cages : Vector Cage 32,
    s.mapJournals f = { s with cages := cages } ∧ ∀ k : CageId, ∃ j, cages[k] = { s.cage k with journal := j } := by
  refine ⟨(s.mapJournals f).cages, ?_, fun k => ⟨f k (s.cage k).journal, ?_⟩⟩
  · simp only [State.mapJournals]
  · simp [State.mapJournals, State.cage]

/-- The comparison of the check values changes the cage records and the store alone (R48, R49). -/
theorem State.compareJournals_eq (s : State) (p : Profile) (check : CheckValue) :
    ∃ (cages : Vector Cage 32) (store : Store), s.compareJournals p check =
      ({ s with cages := cages, store := store }, s.loader.everLoaded && decide (s.store.checkValue = check)) ∧
      ∀ k : CageId, ∃ j, cages[k] = { s.cage k with journal := j } := by
  unfold State.compareJournals
  cases s.loader.everLoaded && decide (s.store.checkValue = check) with
  | true =>
    obtain ⟨cages, changed, each⟩ := s.mapJournals_eq fun k j => { j with quota := p.quotas[k], mask := none }
    refine ⟨cages, s.store, ?_, each⟩
    rw [if_pos rfl, State.keepJournals, changed]
  | false =>
    obtain ⟨cages, changed, each⟩ := s.mapJournals_eq fun k _ => CageRecord.fresh p.quotas[k]
    refine ⟨cages, (s.freshJournals p check).store, ?_, each⟩
    rw [if_neg Bool.false_ne_true, State.freshJournals, changed]

theorem State.logFinding_cage (s : State) (t : Trigger) (f : Finding) (k : CageId) :
    (s.logFinding t f).cage k = s.cage k := by
  cases f <;> rfl

/-- A cage with the profile installed, its two users given the loaded timing set (R90). -/
def Cage.installed (p : Profile) (c : Cage) : Cage := { c with
  seq := { c.seq with active := p.timing, adoptionDue := false }
  gate := { c.gate with active := p.timing, adoptionDue := false } }

theorem State.install_cage (s : State) (p : Profile) (o : LoadOutcome) (check : CheckValue) (k : CageId) :
    (s.install p o check).cage k = (s.cage k).installed p := by
  simp [State.install, State.cage, Cage.installed]

/-- A cage at the end of the load, before those that waited for it go on: only its journal is not said here. -/
theorem State.loaded_cage (s : State) (t : Trigger) (img : List Byte) (k : CageId) :
    let p := (finding img).installed img
    ∃ j : CageRecord, (s.loaded t img).cage k = (Cage.installed p { s.cage k with journal := j }).afterLoad p.policy := by
  obtain ⟨cages, store, compared, each⟩ :=
    (s.portEnded img).compareJournals_eq ((finding img).installed img) ((finding img).check img)
  obtain ⟨j, own⟩ := each k
  refine ⟨j, ?_⟩
  unfold State.loaded State.intoService
  dsimp only
  rw [compared, State.cage_mapCages, State.submit_cage, State.logFinding_cage, State.install_cage]
  exact congrArg (fun c => (Cage.installed _ c).afterLoad _) own

/-- The blocks but the cages and the store, at the end of a reset load (R90, R95, R201). -/
theorem State.loaded_shared (s : State) (t : Trigger) (img : List Byte) :
    let f := finding img
    let p := f.installed img
    let kept := s.loader.everLoaded && decide (s.store.checkValue = f.check img)
    let u := s.loaded t img
    u.channels = s.channels.map (fun h => { h with active := p.timing, adoptionDue := false }) ∧
    u.staged = s.staged ∧ u.power = Power.fresh p ∧ u.log = (s.logFinding t f).log ∧
    u.loader = { profile := p, outcome := f.outcome, check := f.check img, load := none, everLoaded := true
                 flash := s.loader.flash.ended (f.clocked img) } ∧
    u.notice = ((s.logFinding t f).submit (profileFrame t f.outcome (f.check img)
      (decide (t = .lineReset) && kept) (decide (t = .lineReset) && !kept))).notice ∧
    u.pendingTiming = none ∧ u.lineReset = s.lineReset ∧ u.pending = s.pending := by
  obtain ⟨cages, store, compared, -⟩ :=
    (s.portEnded img).compareJournals_eq ((finding img).installed img) ((finding img).check img)
  unfold State.loaded
  dsimp only
  rw [compared]
  unfold State.portEnded
  cases finding img with
  | absent => exact ⟨rfl, rfl, rfl, rfl, rfl, rfl, rfl, rfl, rfl⟩
  | bad cause => exact ⟨rfl, rfl, rfl, rfl, rfl, rfl, rfl, rfl, rfl⟩
  | good => exact ⟨rfl, rfl, rfl, rfl, rfl, rfl, rfl, rfl, rfl⟩

/-! ## The cages that waited for the load (R78) -/

/-- An ADOPT-pending cage that has entered ADOPT, its adopt phase begun (R78, R79, R82). -/
def Cage.adopting (c : Cage) : Cage := { c with
  seq := { c.seq with state := .adopt, adoptPending := false, bootTime := 0, powerTime := 0, attempt := none,
                      due := .compareA, bootCaptured := false, ret := none, started := false }
  timer := { use := .phase .adopt (some c.seq.active.bootFirst) c.seq.active.bootLimit, elapsed := 0 } }

/-- What becomes of a cage that waited for the load, with no timing set pending (R78). -/
def Cage.goesOn (c : Cage) : Cage :=
  if c.seq.adoptPending = true then c.adopting
  else if c.seq.state = .empty ∧ c.mpres = true then c.settling
  else c

theorem State.toAdopt_eq {s : State} (absent : s.pendingTiming = none) (k : CageId) :
    s.toAdopt k = s.modCage k Cage.adopting := by
  unfold State.toAdopt State.startPhase State.modSeq
  dsimp only
  rw [State.adoptSeq_none (.inl (by exact absent)), State.modCage_modCage]
  rfl

theorem State.toSettle_eq {s : State} (absent : s.pendingTiming = none) (k : CageId) :
    s.toSettle k = s.modCage k Cage.settling := by
  have settles := s.toSettle_modCage k id (fun _ => rfl) (fun _ => rfl) fun _ _ => rfl
  rw [State.modCage_id s k id rfl, State.adoptSeq_none (.inl absent)] at settles
  rw [settles]
  refine State.modCage_congr s k _ _ ?_
  dsimp only [id]
  rw [Seq.enter_settle]
  rfl

theorem State.leaveWaiting_eq {s : State} (absent : s.pendingTiming = none) (k : CageId) :
    s.leaveWaiting k = s.modCage k Cage.goesOn := by
  unfold State.leaveWaiting
  dsimp only
  split
  · rename_i waits
    rw [State.toAdopt_eq absent]
    exact State.modCage_congr s k _ _ (if_pos waits).symm
  · rename_i waitsNot
    split
    · rename_i present
      rw [State.toSettle_eq absent]
      refine State.modCage_congr s k _ _ (((if_neg waitsNot).trans (if_pos ?_)).symm)
      simpa using present
    · rename_i stays
      refine (State.modCage_id s k Cage.goesOn ((if_neg waitsNot).trans (if_neg ?_))).symm
      simpa using stays

/-- The cages of a list without repetition go on one by one, each by itself. -/
theorem State.foldl_leaveWaiting (l : List CageId) (distinct : l.Nodup) {s : State} (absent : s.pendingTiming = none) :
    let u := l.foldl State.leaveWaiting s
    u = { s with cages := u.cages } ∧ ∀ k : CageId, u.cage k = if k ∈ l then (s.cage k).goesOn else s.cage k := by
  induction l generalizing s with
  | nil => exact ⟨rfl, fun _ => (if_neg List.not_mem_nil).symm⟩
  | cons a l ih =>
    obtain ⟨first, distinct⟩ := List.nodup_cons.1 distinct
    rw [List.foldl_cons, State.leaveWaiting_eq absent]
    obtain ⟨shared, cages⟩ := ih distinct (s := s.modCage a Cage.goesOn) absent
    refine ⟨shared, fun k => (cages k).trans ?_⟩
    by_cases own : k = a
    · subst own
      rw [if_neg first, if_pos List.mem_cons_self, State.cage_modCage_same]
    · simp only [State.cage_modCage_other s a k _ own, List.mem_cons, own, false_or]

theorem State.endResetLoad_cages (s : State) (t : Trigger) (img : List Byte) :
    s.endResetLoad t img = { s.loaded t img with cages := (s.loaded t img).cages.map Cage.goesOn } := by
  obtain ⟨-, -, -, -, -, -, absent, -⟩ := s.loaded_shared t img
  obtain ⟨shared, cages⟩ := State.foldl_leaveWaiting _ (List.nodup_finRange 32) absent
  have same : ((List.finRange 32).foldl State.leaveWaiting (s.loaded t img)).cages =
      (s.loaded t img).cages.map Cage.goesOn := by
    ext1 k hk
    rw [Vector.getElem_map]
    exact (cages ⟨k, hk⟩).trans (if_pos (List.mem_finRange _))
  rw [State.endResetLoad_eq, shared, same]

/-! ## What the end of the load makes of one cage -/

/-- A transaction still in hand starts the stall timer; the gate keeps its timing set and its cursors (R143). -/
theorem Cage.afterLoad_gate (c : Cage) (policy : PresencePolicy) : let g := (c.afterLoad policy).gate
    g.active = c.gate.active ∧ g.adoptionDue = c.gate.adoptionDue ∧ g.ctrl = c.gate.ctrl ∧ g.modc = c.gate.modc := by
  unfold Cage.afterLoad
  dsimp only
  split
  · exact ⟨rfl, rfl, rfl, rfl⟩
  · exact ⟨rfl, rfl, rfl, rfl⟩

/-- What a cage that goes on keeps: its gate, its pins and its timing set. -/
theorem Cage.goesOn_keeps (c : Cage) : c.goesOn.gate = c.gate ∧ c.goesOn.mpres = c.mpres ∧ c.goesOn.mint = c.mint ∧
    c.goesOn.seq.active = c.seq.active ∧ c.goesOn.seq.adoptionDue = c.seq.adoptionDue := by
  unfold Cage.goesOn
  split
  · exact ⟨rfl, rfl, rfl, rfl, rfl⟩
  · split
    · exact ⟨rfl, rfl, rfl, rfl, rfl⟩
    · exact ⟨rfl, rfl, rfl, rfl, rfl⟩

/-- The state, the lines and the timer of a cage that goes on (R51, R78, R82). -/
theorem Cage.goesOn_state (c : Cage) : let d := c.goesOn
    if c.seq.adoptPending = true then
      d.seq.state = .adopt ∧ d.seq.adoptPending = false ∧ d.seq.mrst = c.seq.mrst ∧ d.seq.mlpw = c.seq.mlpw ∧
      d.timer = { use := .phase .adopt (some c.seq.active.bootFirst) c.seq.active.bootLimit, elapsed := 0 }
    else if c.seq.state = .empty ∧ c.mpres = true then
      d.seq.state = .settle ∧ d.seq.mrst = true ∧ d.seq.mlpw = true ∧
      d.timer = { use := .phase .settle none c.seq.active.settle, elapsed := 0 }
    else d.seq.state = c.seq.state ∧ d.seq.mrst = c.seq.mrst ∧ d.seq.mlpw = c.seq.mlpw ∧ d.timer = c.timer := by
  unfold Cage.goesOn
  split
  · exact ⟨rfl, rfl, rfl, rfl, rfl⟩
  · split
    · exact ⟨rfl, rfl, rfl, rfl⟩
    · exact ⟨rfl, rfl, rfl, rfl⟩

/-- PPRES_n set for the state a cage shows is right for the state it goes on to (R52). -/
theorem Cage.goesOn_ppres {c : Cage} {policy : PresencePolicy} (shown : c.seq.ppres = ppresFor policy c.seq.shown) :
    c.goesOn.seq.ppres = ppresFor policy c.goesOn.seq.state := by
  unfold Seq.shown at shown
  unfold Cage.goesOn
  split
  · rename_i waits
    rw [if_pos waits] at shown
    exact shown
  · rename_i waitsNot
    rw [if_neg waitsNot] at shown
    split
    · cases policy <;> rfl
    · exact shown

/-- What the end of a reset load makes of a cage, but for its journal (R52, R78, R90). -/
def Cage.served (p : Profile) (c d : Cage) : Prop :=
  (if c.seq.adoptPending = true then
    d.seq.state = .adopt ∧ d.seq.adoptPending = false ∧ d.seq.mrst = c.seq.mrst ∧ d.seq.mlpw = c.seq.mlpw ∧
    d.timer = { use := .phase .adopt (some p.timing.bootFirst) p.timing.bootLimit, elapsed := 0 }
  else if c.seq.state = .empty ∧ c.mpres = true then
    d.seq.state = .settle ∧ d.seq.mrst = true ∧ d.seq.mlpw = true ∧
    d.timer = { use := .phase .settle none p.timing.settle, elapsed := 0 }
  else d.seq.state = c.seq.state ∧ d.seq.mrst = c.seq.mrst ∧ d.seq.mlpw = c.seq.mlpw ∧ d.timer = c.timer) ∧
  d.seq.ppres = ppresFor p.policy d.seq.state ∧
  (d.seq.active = p.timing ∧ d.seq.adoptionDue = false ∧ d.gate.active = p.timing ∧ d.gate.adoptionDue = false) ∧
  d.gate.ctrl = c.gate.ctrl ∧ d.gate.modc = c.gate.modc ∧ d.mpres = c.mpres ∧ d.mint = c.mint

theorem Cage.served_goesOn (p : Profile) (j : CageRecord) (c : Cage) :
    c.served p ((Cage.installed p { c with journal := j }).afterLoad p.policy).goesOn := by
  let e := Cage.installed p { c with journal := j }
  obtain ⟨gateActive, gateDue, ctrl, modc⟩ := e.afterLoad_gate p.policy
  obtain ⟨gate, mpres, mint, active, due⟩ := (e.afterLoad p.policy).goesOn_keeps
  exact ⟨(e.afterLoad p.policy).goesOn_state, Cage.goesOn_ppres rfl,
    ⟨active, due, (congrArg Gate.active gate).trans gateActive, (congrArg Gate.adoptionDue gate).trans gateDue⟩,
    (congrArg Gate.ctrl gate).trans ctrl, (congrArg Gate.modc gate).trans modc, mpres, mint⟩

/-- Settles O8: the shared blocks by `State.loaded_shared`, and each cage by the lemmas of `Cage.goesOn`. -/
theorem resetLoadEndsInService : Obligations.ResetLoadEndsInService := by
  unfold Obligations.ResetLoadEndsInService
  intro flash trig s reset loading f p kept
  have run : exec (.resetProfileLoadEnd flash) s = .next (s.endResetLoad trig flash) := by
    rcases reset with rfl | rfl <;> simp only [exec, execResetProfileLoadEnd, loading]
  obtain ⟨channels, staged, power, log, loader, notice, timing, lineReset, pending⟩ := s.loaded_shared trig flash
  refine ⟨_, run, ?_⟩
  rw [State.endResetLoad_cages]
  refine ⟨?loader, power, timing, fun c => ?channels, log, notice, staged, lineReset, pending, fun k => ?cages⟩
  case loader =>
    rw [Finding.clocked_eq] at loader
    exact loader
  case channels =>
    dsimp only
    rw [channels, Fin.getElem_fin, Vector.getElem_map]
    rfl
  case cages =>
    obtain ⟨j, loaded⟩ := s.loaded_cage trig flash k
    rw [State.cage_mapCages, loaded]
    exact Cage.served_goesOn p j (s.cage k)

end Sys2Proof.Machine
end

section
/-! SUPPORT. The end of a RELOAD's load (R91, R103, R203), and the proof of O11. -/

namespace Sys2Proof.Machine

/-- The load in progress is over and the flash deselected (R201, R203). -/
def State.reloadEnded (s : State) (img : List Byte) : State :=
  { s with loader := { s.loader with load := none, flash := s.loader.flash.ended ((finding img).clocked img) } }

/-- The values of a GOOD image in their places, before the unit's tests (R91, R103, R105). -/
def State.valuesPlaced (s : State) (img : List Byte) : State :=
  { s with
    cages := s.cages.map fun c =>
      { c with seq := { c.seq with adoptionDue := true }, gate := { c.gate with adoptionDue := true } }
    channels := s.channels.map fun h => { h with adoptionDue := true }
    pendingTiming := some (timingOf img)
    power := { s.power with pendingBudget := some (budgetOf img), draws := drawsOf img, factor := factorOf img }
    loader := { s.loader with outcome := .good, check := .word (checkWord img) } }

theorem State.handOn_eq (s : State) (img : List Byte) : s.handOn img = (s.valuesPlaced img).unitTests := rfl

theorem State.endReload_good {s : State} {img : List Byte} (good : finding img = .good) :
    s.endReload img = ((s.reloadEnded img).valuesPlaced img).unitTests.submit
      (profileFrame .reload .good (.word (checkWord img)) false false) := by
  have loader := (UnitKeeps.unitTests ((s.reloadEnded img).valuesPlaced img)).loader
  have ends : s.endReload img = ((s.reloadEnded img).valuesPlaced img).unitTests.submit (profileFrame .reload .good
      ((s.reloadEnded img).valuesPlaced img).unitTests.loader.check false false) := by
    unfold State.endReload State.reloadEnded
    rw [good, ← State.handOn_eq]
    rfl
  rw [ends, loader]
  rfl

theorem State.endReload_other {s : State} {img : List Byte} (other : finding img ≠ .good) :
    s.endReload img = ((s.reloadEnded img).logFinding .reload (finding img)).submit
      (profileFrame .reload (finding img).outcome s.loader.check false false) := by
  unfold State.endReload State.reloadEnded
  cases found : finding img with
  | good => exact absurd found other
  | absent => rfl
  | bad cause => rfl

/-- The unit's tests leave the journals alone (R65). -/
theorem UnitKeeps.journal {s t : State} (h : UnitKeeps s t) (k : CageId) : (t.cage k).journal = (s.cage k).journal := by
  rcases h.cage k with same | admitted
  · rw [same]
  · rw [admitted]

theorem State.valuesPlaced_cage (s : State) (img : List Byte) (k : CageId) : (s.valuesPlaced img).cage k =
    { s.cage k with
      seq := { (s.cage k).seq with adoptionDue := true }, gate := { (s.cage k).gate with adoptionDue := true } } :=
  (State.cage_congr rfl k).trans (s.cage_mapCages _ k)

theorem State.valuesPlaced_channels (s : State) (img : List Byte) (c : Fin 4) :
    (s.valuesPlaced img).channels[c] = { s.channels[c] with adoptionDue := true } :=
  s.channel_mapChannels _ c

/-- The fault of a finding goes to the log and to the notices, whatever the loader holds (R197). -/
theorem State.logFinding_reloadEnded (s : State) (img : List Byte) : let f := finding img
    (s.reloadEnded img).logFinding .reload f = { s.reloadEnded img with
      log := (s.logFinding .reload f).log, notice := (s.logFinding .reload f).notice } := by
  unfold State.reloadEnded
  cases finding img with
  | absent => rfl
  | bad cause => rfl
  | good => rfl

/-- Settles O11: a GOOD image by the frame of the unit's tests, any other by what a finding logs. -/
theorem reloadHandsOn : Obligations.ReloadHandsOn := by
  unfold Obligations.ReloadHandsOn
  intro flash s loading f port
  have run : exec (.reloadLoadEnd flash) s = .next (s.endReload flash) := by
    simp only [exec, execReloadLoadEnd, loading]
  have clocked : s.loader.flash.ended ((finding flash).clocked flash) = port := by
    rw [Finding.clocked_eq]
    rfl
  refine ⟨_, run, ?_⟩
  by_cases good : finding flash = .good
  case pos =>
    let v := (s.reloadEnded flash).valuesPlaced flash
    have tests : UnitKeeps v v.unitTests := .unitTests v
    have unlogged : s.logFinding .reload f = s := by
      rw [show f = .good from good]
      rfl
    have check : v.unitTests.loader.check = .word (checkWord flash) := congrArg Loader.check tests.loader
    have profile : v.unitTests.loader.profile = s.loader.profile := by
      rw [tests.loader]
      rfl
    have journal (k : CageId) : (v.unitTests.cage k).journal = (s.cage k).journal := by
      rw [tests.journal, State.valuesPlaced_cage]
      rfl
    rw [State.endReload_good good, unlogged, show f.outcome = .good from congrArg Finding.outcome good]
    refine ⟨tests.staged, tests.store, tests.lineReset, tests.pending, profile, journal, tests.log, ?notice,
      fun _ => ⟨v, rfl, ?loader, rfl, rfl, State.valuesPlaced_channels _ flash, State.valuesPlaced_cage _ flash, rfl,
        rfl, rfl, rfl, rfl⟩, fun other => absurd good other⟩
    case notice =>
      rw [State.submit_loader, check, State.submit_notice, tests.notice]
      rfl
    case loader =>
      rw [← clocked]
      rfl
  case neg =>
    rw [State.endReload_other good, State.logFinding_reloadEnded]
    exact ⟨rfl, rfl, rfl, rfl, rfl, fun _ => rfl, rfl, rfl, fun isGood => absurd isGood good,
      fun _ => ⟨congrArg (fun port => { s.loader with load := none, flash := port }) clocked, rfl, rfl, rfl, rfl⟩⟩

end Sys2Proof.Machine
end

section
/-! SUPPORT. One step: the command at the front of the queue, and on an empty queue what the part does by itself (log entry
2), and the proofs of O1 and O2. -/

namespace Sys2Proof.Machine

theorem step_cons {i : Instr} {rest : List Instr} {s : State} (front : s.pending = i :: rest) :
    step s = exec i { s with pending := rest } := by
  simp only [step, front]

theorem step_nil {s : State} (empty : s.pending = []) : step s = s.idle := by
  simp only [step, empty]

/-- Settles O1: `step` reads its queue's front. -/
theorem stepRunsFrontCommand : Obligations.StepRunsFrontCommand := by
  unfold Obligations.StepRunsFrontCommand
  exact fun i rest s front => step_cons front

theorem State.idle_adopts {s : State} (due : s.power.adoptionHolds = true) : s.idle = exec .pendingBudgetAdopt s := by
  rw [State.idle, if_pos due]

theorem State.idle_admits {s : State} (undue : s.power.adoptionHolds = false) (passes : s.power.headPasses = true) :
    s.idle = exec .admission s := by
  rw [State.idle, if_neg (Bool.eq_false_iff.1 undue), if_pos passes]

/-- What is left to do where neither an adoption nor an admission is: a grant needs a staged cage and a free channel (R111). -/
theorem State.idle_grantsOrTicks {s : State} (undue : s.power.adoptionHolds = false) (stops : s.power.headPasses = false) :
    s.idle = if s.staged ≠ [] ∧ s.freeChannel.isSome = true then exec .channelGrant s else .next s.tick := by
  rw [State.idle, if_neg (Bool.eq_false_iff.1 undue), if_neg (Bool.eq_false_iff.1 stops)]
  simp only [Bool.and_eq_true, Bool.not_eq_true', List.isEmpty_eq_false_iff]

/-- Settles O2: the four cases in the order in which `State.idle` tries them. -/
theorem idleStepOrder : Obligations.IdleStepOrder := by
  unfold Obligations.IdleStepOrder
  intro s empty
  rw [step_nil empty]
  refine ⟨State.idle_adopts, State.idle_admits, fun undue stops staged free => ?grants, fun undue stops lacks => ?ticks⟩
  all_goals rw [State.idle_grantsOrTicks undue stops]
  case grants => exact if_pos ⟨staged, free⟩
  case ticks =>
    refine if_neg fun ⟨staged, free⟩ => ?_
    rcases lacks with none_staged | none_free
    · exact staged none_staged
    · rw [none_free] at free
      exact absurd free Bool.false_ne_true

end Sys2Proof.Machine
end

section
/-! SUPPORT. One millisecond on each timer (R81, R92–R94, R196), and the proof of O3. -/

namespace Sys2Proof.Machine

theorem PhaseTimer.tick_eq (t : PhaseTimer) :
    t.tick = { t with elapsed := if t.use = .idle then t.elapsed else min (t.elapsed + 1) 32767 } := by
  cases t with
  | mk use _ => cases use <;> rfl

theorem Gate.tick_eq (g : Gate) : g.tick = { g with
    stallElapsed := if g.stallUse = .stopped ∨ g.stallUse = .busFree then g.stallElapsed
      else min (g.stallElapsed + 1) 255 } := by
  cases g with
  | mk _ _ _ _ stallUse => cases stallUse <;> rfl

theorem Channel.tick_eq (h : Channel) :
    h.tick = { h with delay := if h.delayRunning then min (h.delay + 1) 2550 else h.delay } := by
  unfold Channel.tick
  split <;> rfl

/-- Everything that a millisecond does: the uptime counts always, the timers of the cages and of the channels unless RESET_n
is asserted (R81, R196). -/
theorem State.tick_eq (s : State) : s.tick = { s with
    log := { s.log with uptime := s.log.uptime + 1 }
    cages := if s.lineReset then s.cages else s.cages.map Cage.tick
    channels := if s.lineReset then s.channels else s.channels.map Channel.tick } := by
  unfold State.tick
  dsimp only
  split <;> rfl

/-- With RESET_n asserted the uptime alone counts (R81). -/
theorem State.tick_held {s : State} (asserted : s.lineReset = true) :
    s.tick = { s with log := { s.log with uptime := s.log.uptime + 1 } } := by
  simp only [State.tick_eq, asserted, if_true]

theorem State.tick_cage {s : State} (released : s.lineReset = false) (k : CageId) : s.tick.cage k = (s.cage k).tick := by
  refine Eq.trans (State.cage_congr ?_ k) (s.cage_mapCages Cage.tick k)
  rw [State.tick_eq, released]
  rfl

theorem State.tick_channel {s : State} (released : s.lineReset = false) (c : Fin 4) :
    s.tick.channels[c] = s.channels[c].tick := by
  rw [State.tick_eq, released]
  exact s.channel_mapChannels Channel.tick c

/-- Settles O3: a cage and a channel timer by timer, the rest by `State.tick_eq`. -/
theorem tickCountsTime : Obligations.TickCountsTime := by
  unfold Obligations.TickCountsTime
  intro s
  refine ⟨congrArg State.log s.tick_eq, fun asserted => ?held, fun released => ⟨fun k => ?cage, fun c => ?channel⟩, ?shared⟩
  case held =>
    rw [State.tick_held asserted]
    exact ⟨rfl, rfl⟩
  case cage =>
    rw [State.tick_cage released, Cage.tick, PhaseTimer.tick_eq, Gate.tick_eq]
    rfl
  case channel => rw [State.tick_channel released, Channel.tick_eq]
  case shared =>
    rw [State.tick_eq]
    exact ⟨rfl, rfl, rfl, rfl, rfl, rfl, rfl, rfl⟩

end Sys2Proof.Machine
end

section
/-! SUPPORT. The start of an attempt at its due point (R83–R86), and the proof of O18. -/

namespace Sys2Proof.Machine

/-- A cage whose sequencer begins an attempt where its phase timer has reached `v`: the state's reads are to be made, and what
has been captured before is kept for compare B to restore (R84, R86). -/
def Cage.attempting (profile : Profile) (v : Nat) (c : Cage) : Cage :=
  let now := max c.timer.elapsed v
  { c with
    timer := { c.timer with elapsed := now }
    seq := { c.seq with
      due := .none
      attempt := some { began := now, todo := attemptReads profile c.seq.state, identity := [], classByte := 0,
                        matched := false, pointed := false, kept := c.seq.captures }
      started := decide (c.gate.stallUse = .stopped ∨ c.gate.stallUse = .stuck) } }

/-- The start of an attempt at the value `v` of the phase timer, as a frame (R84). -/
theorem State.beginAttempt_becomes (s : State) (k : CageId) (v : Nat) :
    cageBecomes k ((s.cage k).attempting s.profile v) s ((s.reach k v).beginAttempt k) := by
  unfold State.reach State.beginAttempt
  rw [State.modCage_modCage]
  refine cageBecomes_modCage ?_
  dsimp only
  rw [Gate.stallBusy_eq]
  rfl

section
variable {s : State} {k : CageId} {p : Phase} {a? : Option Nat} {b v : Nat}
  (running : (s.cage k).timer.use = .phase p a? b)
include running

theorem exec_phaseCompareA_begins (due : (s.cage k).seq.due = .compareA) (compareA : a? = some v) :
    exec (.phaseCompareA k) s = .next ((s.reach k v).beginAttempt k) := by
  simp only [exec, execPhaseCompareA, running, due, compareA]

/-- The two outcomes of ATTEMPT_DUE at a due point: none is made beyond compare B (R85; log entry 26). -/
theorem exec_attemptDue_at (due : (s.cage k).seq.due = .at v) :
    exec (.attemptDue k) s = if v ≤ b then .next ((s.reach k v).beginAttempt k) else .next s := by
  simp only [exec, execAttemptDue, running, due]

end

/-- Settles O18: both commands begin the attempt as `State.beginAttempt_becomes` says. -/
theorem attemptsBeginWhenDue : Obligations.AttemptsBeginWhenDue := by
  unfold Obligations.AttemptsBeginWhenDue
  intro k p a? b v s c running now begun
  have begins : cageBecomes k begun s ((s.reach k v).beginAttempt k) := s.beginAttempt_becomes k v
  refine ⟨fun due compareA => ⟨_, exec_phaseCompareA_begins running due compareA, begins⟩,
    fun due within => ⟨_, ?within, begins⟩, fun due beyond => ?beyond⟩
  all_goals rw [exec_attemptDue_at running due]
  case within => exact if_pos within
  case beyond => exact if_neg (Nat.not_le.2 beyond)

end Sys2Proof.Machine
end
